-- ==== Sys2Proof/Word.lean ====
section
/-! DEFINITION. The word types of the block: request words, bytes and bus bytes. -/

namespace Sys2Proof

/-- A request word on the request port, `REQ_W` = 16 bits (00_scope.md R8, 30_encoding.md R54). -/
abbrev Word := BitVec 16

/-- A register value, a data byte, a command byte: 8 bits (00_scope.md R8). -/
abbrev Byte := BitVec 8

/-- A bus byte as the opcode table writes it, `{RS, DB7..DB0}` (30_encoding.md R58). -/
abbrev BusByte := BitVec 9

end Sys2Proof
end

