-- ==== Sys2Proof/Syntax.lean ====
section
/-! DEFINITION. The instructions: one constructor for each row of spec/opcode_table.json, the fifteen host
operations of format H and the seven bus bytes of format B. -/

namespace Sys2Proof

/-- The operations a host can request (30_encoding.md R55) and the bytes the block puts on the bus
(30_encoding.md R59 to R66). -/
inductive Instr where
  /-- INIT, `0x0000` (40_init.md R76). -/
  | init
  /-- CLEAR, `0x1000` (41_clear_home.md R80). -/
  | clear
  /-- HOME, `0x2000` (41_clear_home.md R81). -/
  | home
  /-- ENTRY_MODE_SET `id, s`, `0x3000 | (id << 1) | s` (45_function_set_entry_mode.md R107). -/
  | entryModeSet (id s : BitVec 1)
  /-- DISPLAY_ON, `0x4000` (42_display_control.md R84). -/
  | displayOn
  /-- DISPLAY_OFF, `0x5000` (42_display_control.md R85). -/
  | displayOff
  /-- CURSOR_ON, `0x6000` (42_display_control.md R86). -/
  | cursorOn
  /-- CURSOR_OFF, `0x7000` (42_display_control.md R87). -/
  | cursorOff
  /-- BLINK_ON, `0x8000` (42_display_control.md R88). -/
  | blinkOn
  /-- BLINK_OFF, `0x9000` (42_display_control.md R89). -/
  | blinkOff
  /-- SET_DDRAM_ADDR `addr`, `0xA000 | addr` (43_ddram_print.md R91); every 8-bit operand is a legal word. -/
  | setDdramAddr (addr : Byte)
  /-- PRINT with its payload: `0xB000 | n` and `n` payload words (43_ddram_print.md R92, 30_encoding.md R56). -/
  | print (bytes : List Byte)
  /-- FUNCTION_SET, `0xC000` (45_function_set_entry_mode.md R105). -/
  | functionSet
  /-- CFGW `idx, val`, `0xD000 | (idx << 8) | val` (46_register_access.md R109); every index is a legal word. -/
  | cfgw (idx : BitVec 4) (val : Byte)
  /-- REGRD `idx`, `0xE000 | (idx << 8)` (46_register_access.md R110); every index is a legal word. -/
  | regrd (idx : BitVec 4)
  /-- Clear Display on the bus, `0 0000 0001` (30_encoding.md R60). -/
  | busClearDisplay
  /-- Return Home on the bus, `0 0000 0010` (30_encoding.md R61). -/
  | busReturnHome
  /-- Entry Mode Set on the bus, `0 0000 01IS` (30_encoding.md R62). -/
  | busEntryModeSet (i s : BitVec 1)
  /-- Display Control on the bus, `0 0000 1DCB` (30_encoding.md R63). -/
  | busDisplayControl (d c b : BitVec 1)
  /-- Function Set on the bus, `0 001L NFAA` (30_encoding.md R64). -/
  | busFunctionSet (l n f : BitVec 1) (a : BitVec 2)
  /-- Set DDRAM Address on the bus, `0 1aaa aaaa` (30_encoding.md R65). -/
  | busSetDdramAddress (a : BitVec 7)
  /-- A data byte on the bus, `1 dddd dddd` (30_encoding.md R66). -/
  | busDataWrite (d : Byte)
  deriving DecidableEq, Repr

/-- Whether the row is a host operation (format H); the other rows are bus bytes (format B), which no
request word carries (44_transmit_strobe.md R95). -/
def Instr.isHost : Instr → Bool
  | .init | .clear | .home | .entryModeSet _ _ | .displayOn | .displayOff | .cursorOn | .cursorOff
  | .blinkOn | .blinkOff | .setDdramAddr _ | .print _ | .functionSet | .cfgw _ _ | .regrd _ => true
  | .busClearDisplay | .busReturnHome | .busEntryModeSet _ _ | .busDisplayControl _ _ _
  | .busFunctionSet _ _ _ _ | .busSetDdramAddress _ | .busDataWrite _ => false

end Sys2Proof
end

