-- ==== Sys2Proof/WellFormed.lean ====
section
/-! DEFINITION. Which instructions have an encoding. The operand types admit only what fits its field, so one
check is left: the byte count of a PRINT. -/

namespace Sys2Proof

/-- The largest byte count of one PRINT, `PRINT_MAX` (00_scope.md R8, 43_ddram_print.md R94). -/
def printMax : Nat := 255

/-- An instruction is well formed when its encoding exists: a PRINT carries at most 255 bytes, since its count
is the 8-bit field `arg` (30_encoding.md R55, 43_ddram_print.md R94 (f)). -/
def Instr.wellFormed : Instr → Bool
  | .print bytes => decide (bytes.length ≤ printMax)
  | .init | .clear | .home | .entryModeSet _ _ | .displayOn | .displayOff | .cursorOn | .cursorOff
  | .blinkOn | .blinkOff | .setDdramAddr _ | .functionSet | .cfgw _ _ | .regrd _
  | .busClearDisplay | .busReturnHome | .busEntryModeSet _ _ | .busDisplayControl _ _ _
  | .busFunctionSet _ _ _ _ | .busSetDdramAddress _ | .busDataWrite _ => true

/-- `WellFormed i`, the decidable proposition. -/
abbrev WellFormed (i : Instr) : Prop := i.wellFormed = true

end Sys2Proof
end

