-- ==== Sys2Proof/Decode.lean ====
section
/-! DEFINITION. The decoder of request words (format H with format P payload) and of bus bytes (format B), the
encoder written from the same tables, and the host's numbering of the opcode table. -/

namespace Sys2Proof

/-- Why a word or a byte is no instruction. -/
inductive Reject where
  /-- The request stream holds no word: the block is idle (70_reset_and_hazards.md R133). -/
  | noWord
  /-- `op = 0xF`, the reserved operation code (30_encoding.md R68). -/
  | reservedOp
  /-- `idx` is not zero in an operation other than CFGW and REGRD (30_encoding.md R68). -/
  | idxNotZero
  /-- A must-be-zero bit of `arg` is set (30_encoding.md R68). -/
  | argNotZero
  /-- The stream ends inside a PRINT payload; so many payload words are still to come (30_encoding.md R56). -/
  | payloadMissing (words : Nat)
  /-- A command byte the block never emits (30_encoding.md R69). -/
  | notEmitted
  deriving DecidableEq, Repr

/-- What a decoder answers: a value, or why there is none. -/
inductive Decoded (α : Type) where
  | ok (a : α)
  | error (r : Reject)
  deriving DecidableEq, Repr

/-- The value, if there is one. -/
def Decoded.toOption {α : Type} : Decoded α → Option α
  | .ok a => some a
  | .error _ => none

/-! ## Fields of a request word (30_encoding.md R54) -/

/-- `op`, bits 15:12. -/
def opField (w : Word) : BitVec 4 := w.extractLsb' 12 4

/-- `idx`, bits 11:8. -/
def idxField (w : Word) : BitVec 4 := w.extractLsb' 8 4

/-- `arg`, bits 7:0. -/
def argField (w : Word) : Byte := w.extractLsb' 0 8

/-- `word = {op[3:0], idx[3:0], arg[7:0]}` (30_encoding.md R54). -/
def hword (op idx : BitVec 4) (arg : Byte) : Word := op ++ idx ++ arg

/-- The byte of a payload word: bits 7:0; bits 15:8 are ignored (30_encoding.md R56). -/
def payloadByte (w : Word) : Byte := w.extractLsb' 0 8

/-- The payload word the assembler writes for a byte: bits 15:8 are zero (30_encoding.md R72). -/
def payloadWord (b : Byte) : Word := b.setWidth 16

/-- How many payload words follow a header word: `arg` for a legal PRINT header, else none
(30_encoding.md R70). -/
def payloadLength (w : Word) : Nat :=
  if opField w = 0xB#4 ∧ idxField w = 0#4 then (argField w).toNat else 0

/-! ## Decoding a request (30_encoding.md R71) -/

/-- A request of one word without an operand: `idx` and `arg` must be zero (30_encoding.md R68). -/
def decodePlain (i : Instr) (w : Word) (rest : List Word) : Decoded (Instr × List Word) :=
  if idxField w ≠ 0#4 then .error .idxNotZero
  else if argField w ≠ 0#8 then .error .argNotZero
  else .ok (i, rest)

/-- ENTRY_MODE_SET: `id = arg[1]`, `s = arg[0]`, `arg[7:2]` must be zero (30_encoding.md R55). -/
def decodeEntryModeSet (w : Word) (rest : List Word) : Decoded (Instr × List Word) :=
  if idxField w ≠ 0#4 then .error .idxNotZero
  else if (argField w).extractLsb' 2 6 ≠ 0#6 then .error .argNotZero
  else .ok (.entryModeSet ((argField w).extractLsb' 1 1) ((argField w).extractLsb' 0 1), rest)

/-- SET_DDRAM_ADDR: the whole of `arg` is the operand (30_encoding.md R55). -/
def decodeSetDdramAddr (w : Word) (rest : List Word) : Decoded (Instr × List Word) :=
  if idxField w ≠ 0#4 then .error .idxNotZero else .ok (.setDdramAddr (argField w), rest)

/-- PRINT: the header and the next `arg` words (30_encoding.md R56, R70). -/
def decodePrint (w : Word) (rest : List Word) : Decoded (Instr × List Word) :=
  if idxField w ≠ 0#4 then .error .idxNotZero
  else
    let n := (argField w).toNat
    if rest.length < n then .error (.payloadMissing (n - rest.length))
    else .ok (.print ((rest.take n).map payloadByte), rest.drop n)

/-- REGRD: `idx` is the register, `arg` must be zero (30_encoding.md R55). -/
def decodeRegrd (w : Word) (rest : List Word) : Decoded (Instr × List Word) :=
  if argField w ≠ 0#8 then .error .argNotZero else .ok (.regrd (idxField w), rest)

/-- The operation codes of 30_encoding.md R55. -/
def decodeWord (w : Word) (rest : List Word) : Decoded (Instr × List Word) :=
  match (opField w).toNat with
  | 0x0 => decodePlain .init w rest
  | 0x1 => decodePlain .clear w rest
  | 0x2 => decodePlain .home w rest
  | 0x3 => decodeEntryModeSet w rest
  | 0x4 => decodePlain .displayOn w rest
  | 0x5 => decodePlain .displayOff w rest
  | 0x6 => decodePlain .cursorOn w rest
  | 0x7 => decodePlain .cursorOff w rest
  | 0x8 => decodePlain .blinkOn w rest
  | 0x9 => decodePlain .blinkOff w rest
  | 0xA => decodeSetDdramAddr w rest
  | 0xB => decodePrint w rest
  | 0xC => decodePlain .functionSet w rest
  | 0xD => .ok (.cfgw (idxField w) (argField w), rest)
  | 0xE => decodeRegrd w rest
  | _ => .error .reservedOp

/-- The request at the head of a stream, and the stream after it (30_encoding.md R71). -/
def decode : List Word → Decoded (Instr × List Word)
  | [] => .error .noWord
  | w :: rest => decodeWord w rest

/-! ## Decoding a bus byte (30_encoding.md R69) -/

/-- The instruction a byte on the bus is: a data byte when `RS = 1`, else classified by its highest set bit. -/
def decodeBus (b : BusByte) : Decoded Instr :=
  if b.getLsbD 8 then .ok (.busDataWrite (b.extractLsb' 0 8))
  else if b.getLsbD 7 then .ok (.busSetDdramAddress (b.extractLsb' 0 7))
  else if b.extractLsb' 5 2 = 0b01#2 then
    .ok (.busFunctionSet (b.extractLsb' 4 1) (b.extractLsb' 3 1) (b.extractLsb' 2 1) (b.extractLsb' 0 2))
  else if b.extractLsb' 3 4 = 0b0001#4 then
    .ok (.busDisplayControl (b.extractLsb' 2 1) (b.extractLsb' 1 1) (b.extractLsb' 0 1))
  else if b.extractLsb' 2 5 = 0b00001#5 then .ok (.busEntryModeSet (b.extractLsb' 1 1) (b.extractLsb' 0 1))
  else if b = 0x02#9 then .ok .busReturnHome
  else if b = 0x01#9 then .ok .busClearDisplay
  else .error .notEmitted

/-! ## Encoding -/

/-- The bus byte `{RS, DB7..DB0}` of a format B row (30_encoding.md R60 to R66); zero, which is no bus byte, for
a host operation. -/
def encodeBus : Instr → BusByte
  | .busClearDisplay => 0b000000001#9
  | .busReturnHome => 0b000000010#9
  | .busEntryModeSet i s => 0b0000001#7 ++ i ++ s
  | .busDisplayControl d c b => 0b000001#6 ++ d ++ c ++ b
  | .busFunctionSet l n f a => 0b0001#4 ++ l ++ n ++ f ++ a
  | .busSetDdramAddress a => 0b01#2 ++ a
  | .busDataWrite d => 0b1#1 ++ d
  | .init | .clear | .home | .entryModeSet _ _ | .displayOn | .displayOff | .cursorOn | .cursorOff
  | .blinkOn | .blinkOff | .setDdramAddr _ | .print _ | .functionSet | .cfgw _ _ | .regrd _ => 0#9

/-- The words of an instruction, numbered as the opcode table numbers them: the request word (and the payload
words of a PRINT), or the bus byte in the low 9 bits of one word (30_encoding.md R72, R58). -/
def encode : Instr → List Word
  | .init => [hword 0x0#4 0#4 0#8]
  | .clear => [hword 0x1#4 0#4 0#8]
  | .home => [hword 0x2#4 0#4 0#8]
  | .entryModeSet id s => [hword 0x3#4 0#4 (0#6 ++ id ++ s)]
  | .displayOn => [hword 0x4#4 0#4 0#8]
  | .displayOff => [hword 0x5#4 0#4 0#8]
  | .cursorOn => [hword 0x6#4 0#4 0#8]
  | .cursorOff => [hword 0x7#4 0#4 0#8]
  | .blinkOn => [hword 0x8#4 0#4 0#8]
  | .blinkOff => [hword 0x9#4 0#4 0#8]
  | .setDdramAddr addr => [hword 0xA#4 0#4 addr]
  | .print bytes => hword 0xB#4 0#4 (BitVec.ofNat 8 bytes.length) :: bytes.map payloadWord
  | .functionSet => [hword 0xC#4 0#4 0#8]
  | .cfgw idx val => [hword 0xD#4 idx val]
  | .regrd idx => [hword 0xE#4 idx 0#8]
  | .busClearDisplay => [(encodeBus .busClearDisplay).setWidth 16]
  | .busReturnHome => [(encodeBus .busReturnHome).setWidth 16]
  | .busEntryModeSet i s => [(encodeBus (.busEntryModeSet i s)).setWidth 16]
  | .busDisplayControl d c b => [(encodeBus (.busDisplayControl d c b)).setWidth 16]
  | .busFunctionSet l n f a => [(encodeBus (.busFunctionSet l n f a)).setWidth 16]
  | .busSetDdramAddress a => [(encodeBus (.busSetDdramAddress a)).setWidth 16]
  | .busDataWrite d => [(encodeBus (.busDataWrite d)).setWidth 16]

/-! ## A stream of requests -/

/-- Whether a stream does not end inside a payload, `waiting` payload words being still to come at its start
(70_reset_and_hazards.md R146: a stream that does is no program). -/
def streamComplete : (waiting : Nat) → List Word → Bool
  | 0, [] => true
  | _ + 1, [] => false
  | 0, w :: ws => streamComplete (payloadLength w) ws
  | k + 1, _ :: ws => streamComplete k ws

/-! ## The opcode table's numbering -/

/-- The words that `nbits` bits make, bit 0 the least significant bit of the first word. -/
def bitWords (nbits w : Nat) : List Word :=
  (List.range ((nbits + 15) / 16)).map fun k => BitVec.ofNat 16 (w >>> (16 * k))

/-- The words of an instruction whose bits are `w`: those that `nbits` makes, then operand words of zeros, as many
as the header asks for. -/
def tableWords (nbits w : Nat) : List Word :=
  bitWords nbits w ++ List.replicate ((bitWords nbits w).head?.elim 0 payloadLength) 0#16

/-- The instruction the decoders read from the opcode table's word: a format H word decodes as a request; a word
that is no request and has at most 9 bits is read as a format B bus byte. The two formats share no legal word,
since a 9-bit word other than zero is an INIT with a must-be-zero bit set (log 12). -/
def decodeTableWord (nbits w : Nat) : Option Instr :=
  match decode (tableWords nbits w) with
  | .ok (i, _) => some i
  | .error _ => if w < 512 then (decodeBus (BitVec.ofNat 9 w)).toOption else none

end Sys2Proof
end

