-- ==== Sys2Proof/Config.lean ====
section
/-! DEFINITION. What one implementation fixes: the default of the `BIND` straps, and the values the model names
for the registers and pin latches to which the spec gives no reset value. -/

namespace Sys2Proof.Config

/-- The straps of a block wired to a complete pin interface (10_state.md R27, 92_eei_decisions.md D9). -/
def bindDefault : Byte := 0xFF#8

/-- DESIGN CHOICE (unsafe, log 1): the value each configuration register holds after reset; 10_state.md R34
leaves it unspecified. -/
def resetCfg : Byte := 0x00#8

/-- DESIGN CHOICE (unsafe, log 1): `EMS` after reset; 10_state.md R34 leaves it unspecified. -/
def resetEms : BitVec 2 := 0b00#2

/-- DESIGN CHOICE (unsafe, log 1): `DCS` after reset; 10_state.md R34 leaves it unspecified. -/
def resetDcs : BitVec 3 := 0b000#3

/-- DESIGN CHOICE (unsafe, log 1): `FSS` after reset; 10_state.md R34 leaves it unspecified. -/
def resetFss : BitVec 5 := 0b00000#5

/-- DESIGN CHOICE (unsafe, log 2): the level of `PIN_RS`, `PIN_RW` and `PIN_E` after reset; 10_state.md R34
leaves them unspecified. -/
def resetLevel : Bool := false

/-- DESIGN CHOICE (unsafe, log 2): `PIN_DATA` after reset; 10_state.md R34 leaves it unspecified. -/
def resetData : Byte := 0x00#8

end Sys2Proof.Config
end

