-- ==== Sys2Proof/Machine/State.lean ====
section
/-! DEFINITION. The state of the block: its registers and pin latches (10_state.md R17), its inputs, the request
port, and the observation of a run (00_scope.md R6); and why a step can stop. -/

namespace Sys2Proof.Machine

/-- One call of a primitive (00_scope.md R12). A level is `true` for 1 and `false` for 0. -/
inductive Event where
  /-- `DELAY(d)`: ask the delay timer for `us` microseconds. -/
  | delay (us : Nat)
  /-- `DATA(v)`: present the 8-bit value on the data bus. -/
  | data (v : Byte)
  /-- `RS(level)`: Register Select, 0 for a command, 1 for data. -/
  | rs (level : Bool)
  /-- `RW(level)`: Read/Write, 0 for a write, 1 for a read. -/
  | rw (level : Bool)
  /-- `E(level)`: the strobe. -/
  | e (level : Bool)
  deriving DecidableEq, Repr

/-- The eight primitives of the pin and delay interface, in the order of `BIND`'s bits (10_state.md R27). -/
inductive Primitive where
  | delayMicroseconds | setDataPins
  | assertRegisterSelect | clearRegisterSelect
  | assertReadWrite | clearReadWrite
  | assertStrobe | clearStrobe
  deriving DecidableEq, Repr

/-- The status of a response (00_scope.md R13). -/
inductive Status where
  | ok | fail | invalidArgument | outOfRange
  deriving DecidableEq, Repr

/-- The response to one request (30_encoding.md R57). -/
structure Response where
  /-- `RSP_STATUS`. -/
  status : Status
  /-- `RSP_RDATA`: the value read by a REGRD that returns `Ok`, else `0x00`. -/
  rdata : Byte
  deriving DecidableEq, Repr

/-- The pin latches (10_state.md R28). -/
structure Pins where
  /-- `PIN_RS`. -/
  rs : Bool
  /-- `PIN_RW`. -/
  rw : Bool
  /-- `PIN_E`. -/
  e : Bool
  /-- `PIN_DATA`. -/
  data : Byte
  deriving DecidableEq, Repr

/-- A fault would stop the machine. The block has none: every failure is a response status, after which the block
waits for the next request (60_exceptions.md R113, R121). So this type has no constructor and nothing raises it. -/
inductive Fault
  deriving DecidableEq, Repr

/-- Why a step gives an instruction no meaning. -/
inductive Refusal where
  /-- Raised by `exec`'s arm of an instruction that has no meaning yet; no arm is left. Safe: nothing can be
  proved of a run that meets it. -/
  | notModelled (mnemonic : String)
  /-- Raised by `commit` when an operation would call a primitive that is missing (`BIND` bit 0): the source gives
  such a call no effect, and 93_implementation_defined.md U2 asks to refuse the operation (log 4). Safe. -/
  | primitiveMissing (p : Primitive)
  deriving DecidableEq, Repr

/-- The state (10_state.md R17, R27, R31, R32; 00_scope.md R6). -/
structure State where
  /-- `CFG_LINES`, index 0 (10_state.md R19). -/
  cfgLines : Byte
  /-- `CFG_FONT`, index 1 (10_state.md R20). -/
  cfgFont : Byte
  /-- `CFG_BUS`, index 2 (10_state.md R21). -/
  cfgBus : Byte
  /-- `CFG_ALPHA`, index 3 (10_state.md R22). -/
  cfgAlpha : Byte
  /-- `EMS`, index 4: `{ID, S}` (10_state.md R23). -/
  ems : BitVec 2
  /-- `DCS`, index 5: `{D, C, B}` (10_state.md R24). -/
  dcs : BitVec 3
  /-- `FSS`, index 6: `{DL, N, F, A1, A0}` (10_state.md R25). -/
  fss : BitVec 5
  /-- The pin latches (10_state.md R28). -/
  pins : Pins
  /-- `BUSY` (10_state.md R32, 30_encoding.md R53). -/
  busy : Bool
  /-- `BIND`, index 7: the straps, an input no step changes (10_state.md R27, log 3). -/
  bind : Byte
  /-- `RST`, an input no step changes (70_reset_and_hazards.md R131, log 8). -/
  rst : Bool
  /-- The request stream: words the host has presented and the block has not accepted, in order
  (20_memory.md R38, 30_encoding.md R53). -/
  requests : List Word
  /-- The words accepted of a PRINT that waits for payload; empty when no request is open
  (30_encoding.md R53, R56, log 6). -/
  accepted : List Word
  /-- The byte being transmitted (10_state.md R33), `none` between operations (log 7). -/
  txByte : Option BusByte
  /-- `rp`: how many request words have been accepted since reset (10_state.md R31). -/
  rp : Nat
  /-- Every event emitted, oldest first (00_scope.md R6, R12). -/
  events : List Event
  /-- Every response given, oldest first (00_scope.md R6, 30_encoding.md R57). -/
  responses : List Response
  deriving DecidableEq, Repr

/-- The machine right after reset (10_state.md R34, 70_reset_and_hazards.md R131, R132): `BUSY = 0`, no operation
in progress, no response pending, nothing emitted; the registers and latches hold the values Config names, since
the spec gives none (logs 1 and 2). -/
def State.reset : State where
  cfgLines := Config.resetCfg
  cfgFont := Config.resetCfg
  cfgBus := Config.resetCfg
  cfgAlpha := Config.resetCfg
  ems := Config.resetEms
  dcs := Config.resetDcs
  fss := Config.resetFss
  pins := ⟨Config.resetLevel, Config.resetLevel, Config.resetLevel, Config.resetData⟩
  busy := false
  bind := Config.bindDefault
  rst := false
  requests := []
  accepted := []
  txByte := none
  rp := 0
  events := []
  responses := []

end Sys2Proof.Machine
end

