-- ==== Sys2Proof/Machine/Flags.lean ====
section
/-! DEFINITION. The block has no flags (10_state.md R32); what stands in their place is the status of an
operation, its codes and how statuses combine. -/

namespace Sys2Proof.Machine

/-- `failed(st)` is `st != Ok` (00_scope.md R13). -/
def Status.failed (st : Status) : Bool := decide (st ≠ .ok)

/-- The 2-bit code on `RSP_STATUS[1:0]` (60_exceptions.md R114). -/
def Status.code : Status → BitVec 2
  | .ok => 0b00#2
  | .fail => 0b01#2
  | .invalidArgument => 0b10#2
  | .outOfRange => 0b11#2

/-- The two-valued view: the three failures are `Fail` (60_exceptions.md R113). -/
def Status.twoValued (st : Status) : Status := if st.failed then .fail else .ok

/-- `OR` on statuses: `Ok OR Ok = Ok`, any other combination is `Fail` (43_ddram_print.md R93). -/
def Status.or (a b : Status) : Status := if a.failed || b.failed then .fail else .ok

end Sys2Proof.Machine
end

