-- ==== Sys2Proof/Machine/Params.lean ====
section
/-! DEFINITION. The parameters to which the source gives a value, as named constants (00_scope.md R7). -/

namespace Sys2Proof.Machine.Params

/-- `T_POWER`: INIT step 1, power stabilization, in microseconds. -/
def tPower : Nat := 50000

/-- `T_FSET`: INIT's wait after Function Set. -/
def tFset : Nat := 4500

/-- `T_DCTL`: INIT's wait after Display Control. -/
def tDctl : Nat := 4500

/-- `T_CLEAR`: the settle delay of CLEAR. -/
def tClear : Nat := 7000

/-- `T_HOME`: the settle delay of HOME. -/
def tHome : Nat := 2000

/-- `T_E_LOW`: strobe pulse, after the first de-assert. -/
def tELow : Nat := 1

/-- `T_E_HIGH`: strobe pulse, while asserted. -/
def tEHigh : Nat := 1

/-- `T_E_HOLD`: strobe pulse, after the last de-assert. -/
def tEHold : Nat := 100

/-- `DDRAM_MAX`: the largest legal DDRAM address operand. -/
def ddramMax : Byte := 0x7F#8

/-- `BIND` with every primitive present (10_state.md R27). -/
def bindComplete : Byte := 0xFF#8

/-- The codes of `BUS_WIDTHS` (10_state.md R21): 4-bit. -/
def bus4 : Byte := 0x00#8

/-- The codes of `BUS_WIDTHS` (10_state.md R21): 8-bit. -/
def bus8 : Byte := 0x01#8

/-- `BUS_WIDTHS`: the legal values of `CFG_BUS`. -/
def busWidths : List Byte := [bus4, bus8]

/-- `LINES_LEGAL`: the legal values of `CFG_LINES` (10_state.md R19). -/
def linesLegal : List Byte := [0x01#8, 0x02#8]

/-- `FONTS`: the legal values of `CFG_FONT`, 5×8 and 5×10 dots (10_state.md R20). -/
def fonts : List Byte := [0x00#8, 0x01#8]

/-- `N_ALPHA`: the number of character tables. -/
def nAlpha : Nat := 4

/-- The legal values of `CFG_ALPHA`: the table indices 0 to `N_ALPHA - 1` (10_state.md R22). -/
def alphas : List Byte := (List.range nAlpha).map (BitVec.ofNat 8)

end Sys2Proof.Machine.Params
end

