-- ==== Sys2Proof/Machine/Operands.lean ====
section
/-! DEFINITION. The operand forms: the register index space, the domains of the configuration registers, and how
operands and caches become the bits of a bus byte (30_encoding.md R67). -/

namespace Sys2Proof.Machine

/-! ## The register index space (10_state.md R29) -/

/-- The registers a host can name. -/
inductive Reg where
  | cfgLines | cfgFont | cfgBus | cfgAlpha | ems | dcs | fss | bind
  deriving DecidableEq, Repr

/-- The register at an index; indices 8 to 15 name none (10_state.md R29). -/
def regAt (idx : BitVec 4) : Option Reg :=
  match idx.toNat with
  | 0 => some .cfgLines
  | 1 => some .cfgFont
  | 2 => some .cfgBus
  | 3 => some .cfgAlpha
  | 4 => some .ems
  | 5 => some .dcs
  | 6 => some .fss
  | 7 => some .bind
  | _ => none

/-- A register's value, zero-extended to 8 bits (46_register_access.md R110). -/
def readReg (r : Reg) (s : State) : Byte :=
  match r with
  | .cfgLines => s.cfgLines
  | .cfgFont => s.cfgFont
  | .cfgBus => s.cfgBus
  | .cfgAlpha => s.cfgAlpha
  | .ems => s.ems.setWidth 8
  | .dcs => s.dcs.setWidth 8
  | .fss => s.fss.setWidth 8
  | .bind => s.bind

/-- The write of a host: the four configuration registers take the value; the caches and `BIND` are not host
writable (10_state.md R29, 46_register_access.md R111). -/
def writeReg (r : Reg) (v : Byte) (s : State) : Option State :=
  match r with
  | .cfgLines => some { s with cfgLines := v }
  | .cfgFont => some { s with cfgFont := v }
  | .cfgBus => some { s with cfgBus := v }
  | .cfgAlpha => some { s with cfgAlpha := v }
  | .ems | .dcs | .fss | .bind => none

/-! ## Domains -/

/-- `CFG_LINES` holds a legal line count (10_state.md R19). -/
def linesOk (s : State) : Bool := Params.linesLegal.contains s.cfgLines

/-- All four configuration registers are in their domains (45_function_set_entry_mode.md R103). -/
def configOk (s : State) : Bool :=
  Params.busWidths.contains s.cfgBus && linesOk s && Params.fonts.contains s.cfgFont
    && Params.alphas.contains s.cfgAlpha

/-! ## Bus bytes -/

/-- The two modes of a transmission: a command (`RS = 0`) or a data byte (`RS = 1`) (00_scope.md R15). -/
inductive TxMode where
  | cmd | dat
  deriving DecidableEq, Repr

/-- The level of RS in a mode (44_transmit_strobe.md R96). -/
def rsLevel : TxMode → Bool
  | .cmd => false
  | .dat => true

/-- Clear Display (30_encoding.md R60). -/
def clearDisplayByte : Byte := 0x01#8

/-- Return Home (30_encoding.md R61). -/
def returnHomeByte : Byte := 0x02#8

/-- `EMS <- {id, s}` (45_function_set_entry_mode.md R107). -/
def packEms (id s : BitVec 1) : BitVec 2 := id ++ s

/-- Entry Mode Set, `0x04 | EMS` (30_encoding.md R62). -/
def entryModeByte (ems : BitVec 2) : Byte := 0x04#8 ||| ems.setWidth 8

/-- One bit of `DCS` set or cleared, at 3 bits (42_display_control.md R83). -/
def dctlBits (k : Nat) (on : Bool) (dcs : BitVec 3) : BitVec 3 :=
  if on then dcs ||| (1#3 <<< k) else dcs &&& ~~~(1#3 <<< k)

/-- Display Control, `0x08 | DCS` (30_encoding.md R63). -/
def displayControlByte (dcs : BitVec 3) : Byte := 0x08#8 ||| dcs.setWidth 8

/-- `FSS <- {CFG_BUS[0], (CFG_LINES - 1)[0], CFG_FONT[0], CFG_ALPHA[1:0]}` (45_function_set_entry_mode.md R104;
90_conflicts.md C1). -/
def packFss (bus lines font alpha : Byte) : BitVec 5 :=
  bus.extractLsb' 0 1 ++ (lines - 1#8).extractLsb' 0 1 ++ font.extractLsb' 0 1 ++ alpha.extractLsb' 0 2

/-- Function Set, `0x20 | FSS` (30_encoding.md R64). -/
def functionSetByte (fss : BitVec 5) : Byte := 0x20#8 ||| fss.setWidth 8

/-- Set DDRAM Address, `0x80 | addr` (30_encoding.md R65). -/
def ddramByte (addr : Byte) : Byte := 0x80#8 ||| addr

/-- The mode of a bus byte `{RS, DB7..DB0}` (30_encoding.md R58). -/
def busMode (b : BusByte) : TxMode := if b.getLsbD 8 then .dat else .cmd

/-- The data lines of a bus byte `{RS, DB7..DB0}` (30_encoding.md R58). -/
def busData (b : BusByte) : Byte := b.extractLsb' 0 8

end Sys2Proof.Machine
end

