-- ==== Sys2Proof/Machine/Ops.lean ====
section
/-! DEFINITION. The shared operations: events and pin latches, the strobe pulse engine `PULSE`, the byte
transmitter `TX`, failing, responding, the request port, and reset. -/

namespace Sys2Proof.Machine

/-! ## Events (00_scope.md R12) -/

/-- The primitive an event calls. -/
def primitiveOf : Event → Primitive
  | .delay _ => .delayMicroseconds
  | .data _ => .setDataPins
  | .rs true => .assertRegisterSelect
  | .rs false => .clearRegisterSelect
  | .rw true => .assertReadWrite
  | .rw false => .clearReadWrite
  | .e true => .assertStrobe
  | .e false => .clearStrobe

/-- The bit of `BIND` that stands for a primitive (10_state.md R27). -/
def bindBit : Primitive → Nat
  | .delayMicroseconds => 0
  | .setDataPins => 1
  | .assertRegisterSelect => 2
  | .clearRegisterSelect => 3
  | .assertReadWrite => 4
  | .clearReadWrite => 5
  | .assertStrobe => 6
  | .clearStrobe => 7

/-- The first primitive the events call that is not present in `BIND`. -/
def missingPrimitive (bind : Byte) : List Event → Option Primitive
  | [] => none
  | e :: es => if bind.getLsbD (bindBit (primitiveOf e)) then missingPrimitive bind es else some (primitiveOf e)

/-- What an event does to the pin latches (10_state.md R28). -/
def drive (p : Pins) : Event → Pins
  | .delay _ => p
  | .data v => { p with data := v }
  | .rs l => { p with rs := l }
  | .rw l => { p with rw := l }
  | .e l => { p with e := l }

/-- `emit e`: the event joins the event list and drives its latch (00_scope.md R12). -/
def emit (e : Event) (s : State) : State :=
  { s with events := s.events ++ [e], pins := drive s.pins e }

/-! ## PULSE and TX (44_transmit_strobe.md) -/

/-- `PULSE()`, the fixed strobe sequence (44_transmit_strobe.md R98). -/
def pulse (s : State) : State :=
  let s := emit (.e false) s
  let s := emit (.delay Params.tELow) s
  let s := emit (.e true) s
  let s := emit (.delay Params.tEHigh) s
  let s := emit (.e false) s
  emit (.delay Params.tEHold) s

/-- `TX(mode, b)`: select the mode pins, then one transfer on an 8-bit bus, or two on a 4-bit bus, high nibble
first and then the whole byte; any other `CFG_BUS` fails (44_transmit_strobe.md R96, R97; 20_memory.md R44). -/
def tx (mode : TxMode) (b : Byte) (s : State) : Status × State :=
  let s := emit (.rs (rsLevel mode)) s
  let s := emit (.rw false) s
  if s.cfgBus = Params.bus8 then
    (.ok, pulse (emit (.data b) s))
  else if s.cfgBus = Params.bus4 then
    (.ok, pulse (emit (.data b) (pulse (emit (.data (b >>> 4)) s))))
  else (.fail, s)

/-! ## Failing and going on (00_scope.md R14) -/

/-- `raise K`: the operation ends with the failure status; registers already written and events already emitted
stand (00_scope.md R14, 60_exceptions.md R121). This is the block's one form of exception. -/
def raise (k : Status) (s : State) : Status × State := (k, s)

/-- The short circuit `if st != Ok: return st` (40_init.md R76, R77). -/
def andThen (r : Status × State) (next : State → Status × State) : Status × State :=
  if r.1.failed then r else next r.2

/-! ## The end of an operation -/

/-- The response to a request; `BUSY` falls (30_encoding.md R53, R57; 60_exceptions.md R121). -/
def respond (st : Status) (rdata : Byte) (s : State) : State :=
  { s with responses := s.responses ++ [⟨st, rdata⟩], busy := false }

/-- The outcome of an operation that began in `s` and ends in `t`: refused as a whole when one of the events it
emitted calls a missing primitive (93_implementation_defined.md U2, log 4), else the next state. -/
def commit (s t : State) : Host.Outcome State Fault Refusal :=
  match missingPrimitive s.bind (t.events.drop s.events.length) with
  | some p => .refused (.primitiveMissing p)
  | none => .next t

/-- The end of a request: its response, with `rdata` only where the rule gives a value (30_encoding.md R57). -/
def finish (s : State) (rdata : Byte) (r : Status × State) : Host.Outcome State Fault Refusal :=
  commit s (respond r.1 rdata r.2)

/-- One request that reads nothing back: run the operation and respond with its status. -/
def perform (op : State → Status × State) (s : State) : Host.Outcome State Fault Refusal :=
  finish s 0x00#8 (op s)

/-- One bus byte: the transmission of `{RS, DB7..DB0}`; it is no request, so it has no response
(30_encoding.md R58, 44_transmit_strobe.md R95, R96; log 7). -/
def transmit (b : BusByte) (s : State) : Host.Outcome State Fault Refusal :=
  commit s (tx (busMode b) (busData b) s).2

/-! ## The request port (30_encoding.md R53) -/

/-- The words the block decodes next: those of an open request, then those the host has presented. -/
def portWords (s : State) : List Word := s.accepted ++ s.requests

/-- Accept a whole request, `rest` being the stream after it: `BUSY` rises, `rp` counts the words just taken
(30_encoding.md R53, 10_state.md R31). -/
def accept (rest : List Word) (s : State) : State :=
  { s with requests := rest, accepted := [], busy := true, rp := s.rp + (s.requests.length - rest.length) }

/-- A PRINT whose payload is not all there: every word presented is accepted and the block waits with `BUSY = 1`
(30_encoding.md R53, R56; 70_reset_and_hazards.md R146; log 6). -/
def await (s : State) : State :=
  { s with requests := [], accepted := portWords s, busy := true, rp := s.rp + s.requests.length }

/-- An illegal request word: one word is accepted, the response is `InvalidArgument` with `rdata = 0x00`, nothing
else changes (30_encoding.md R68). -/
def rejectWord (s : State) : State :=
  let r := raise .invalidArgument (accept (portWords s).tail s)
  respond r.1 0x00#8 r.2

/-! ## What the world outside does -/

/-- The host presents a word. While `BUSY = 1` and no payload is awaited it is not accepted and has no effect
(30_encoding.md R53, 93_implementation_defined.md U7). -/
def present (w : Word) (s : State) : State :=
  if s.busy && s.accepted.isEmpty then s else { s with requests := s.requests ++ [w] }

/-- The level of `RST` (70_reset_and_hazards.md R131). DESIGN CHOICE (unsafe, log 20): between two steps only the level
changes, and reset acts in the step that finds it active, so a level raised and dropped between two steps resets
nothing; 91_not_in_source.md N1 leaves open whether reset is synchronous. -/
def setRst (level : Bool) (s : State) : State := { s with rst := level }

/-- A step while `RST` is active: the open request is abandoned without a response, `BUSY = 0`, events already
emitted stay, nothing is accepted or emitted, and the registers take their values after reset
(70_reset_and_hazards.md R131, R132; log 8). The latches hold their levels, since reset drives no pin. -/
def holdReset (s : State) : State :=
  { State.reset with
    pins := s.pins, bind := s.bind, rst := s.rst, requests := s.requests, events := s.events,
    responses := s.responses }

end Sys2Proof.Machine
end

