-- ==== Sys2Proof/Machine/BusBytes.lean ====
section
/-! DEFINITION. The seven bus bytes of format B. A bus byte is what the block emits, not a request: its meaning is
its transmission by `TX`, in the mode its `RS` bit names (30_encoding.md R58, 44_transmit_strobe.md R95, R96). -/

namespace Sys2Proof.Machine

/-- BUS_CLEAR_DISPLAY (30_encoding.md R60). -/
def execBusClearDisplay (s : State) : Host.Outcome State Fault Refusal := transmit (encodeBus .busClearDisplay) s

/-- BUS_RETURN_HOME (30_encoding.md R61). -/
def execBusReturnHome (s : State) : Host.Outcome State Fault Refusal := transmit (encodeBus .busReturnHome) s

/-- BUS_ENTRY_MODE_SET (30_encoding.md R62). -/
def execBusEntryModeSet (i sh : BitVec 1) (s : State) : Host.Outcome State Fault Refusal :=
  transmit (encodeBus (.busEntryModeSet i sh)) s

/-- BUS_DISPLAY_CONTROL (30_encoding.md R63). -/
def execBusDisplayControl (d c b : BitVec 1) (s : State) : Host.Outcome State Fault Refusal :=
  transmit (encodeBus (.busDisplayControl d c b)) s

/-- BUS_FUNCTION_SET (30_encoding.md R64). -/
def execBusFunctionSet (l n f : BitVec 1) (a : BitVec 2) (s : State) : Host.Outcome State Fault Refusal :=
  transmit (encodeBus (.busFunctionSet l n f a)) s

/-- BUS_SET_DDRAM_ADDRESS (30_encoding.md R65). -/
def execBusSetDdramAddress (a : BitVec 7) (s : State) : Host.Outcome State Fault Refusal :=
  transmit (encodeBus (.busSetDdramAddress a)) s

/-- BUS_DATA_WRITE (30_encoding.md R66). -/
def execBusDataWrite (d : Byte) (s : State) : Host.Outcome State Fault Refusal :=
  transmit (encodeBus (.busDataWrite d)) s

end Sys2Proof.Machine
end

