-- ==== Sys2Proof/Machine/DdramPrint.lean ====
section
/-! DEFINITION. SET_DDRAM_ADDR and PRINT (43_ddram_print.md). -/

namespace Sys2Proof.Machine

/-- The pseudocode of 43_ddram_print.md R91: the range check comes before any transmission. -/
def opSetDdramAddr (addr : Byte) (s : State) : Status × State :=
  if Params.ddramMax < addr then raise .outOfRange s else tx .cmd (ddramByte addr) s

/-- The loop of 43_ddram_print.md R92: every byte is sent, whatever the earlier statuses, and the statuses are
combined by `OR` (R93). -/
def printLoop (st : Status) : List Byte → State → Status × State
  | [], s => (st, s)
  | b :: bs, s =>
    let r := tx .dat b s
    printLoop (st.or r.1) bs r.2

/-- SET_DDRAM_ADDR (43_ddram_print.md R91). -/
def execSetDdramAddr (addr : Byte) (s : State) : Host.Outcome State Fault Refusal :=
  perform (opSetDdramAddr addr) s

/-- PRINT (43_ddram_print.md R92). -/
def execPrint (bytes : List Byte) (s : State) : Host.Outcome State Fault Refusal :=
  perform (printLoop .ok bytes) s

end Sys2Proof.Machine
end

