-- ==== Sys2Proof/Machine/DisplayControl.lean ====
section
/-! DEFINITION. DISPLAY_ON, DISPLAY_OFF, CURSOR_ON, CURSOR_OFF, BLINK_ON, BLINK_OFF (42_display_control.md). -/

namespace Sys2Proof.Machine

/-- `DCTL(k, on)`: change one bit of `DCS`, write it back, then send the whole byte (42_display_control.md R83);
the new value stays when the transmission fails (10_state.md R26). -/
def dctl (k : Nat) (on : Bool) (s : State) : Status × State :=
  let s := { s with dcs := dctlBits k on s.dcs }
  tx .cmd (displayControlByte s.dcs) s

/-- DISPLAY_ON (42_display_control.md R84). -/
def execDisplayOn (s : State) : Host.Outcome State Fault Refusal := perform (dctl 2 true) s

/-- DISPLAY_OFF (42_display_control.md R85). -/
def execDisplayOff (s : State) : Host.Outcome State Fault Refusal := perform (dctl 2 false) s

/-- CURSOR_ON (42_display_control.md R86). -/
def execCursorOn (s : State) : Host.Outcome State Fault Refusal := perform (dctl 1 true) s

/-- CURSOR_OFF (42_display_control.md R87). -/
def execCursorOff (s : State) : Host.Outcome State Fault Refusal := perform (dctl 1 false) s

/-- BLINK_ON (42_display_control.md R88). -/
def execBlinkOn (s : State) : Host.Outcome State Fault Refusal := perform (dctl 0 true) s

/-- BLINK_OFF (42_display_control.md R89). -/
def execBlinkOff (s : State) : Host.Outcome State Fault Refusal := perform (dctl 0 false) s

end Sys2Proof.Machine
end

