-- ==== Sys2Proof/Machine/ClearHome.lean ====
section
/-! DEFINITION. CLEAR and HOME (41_clear_home.md). -/

namespace Sys2Proof.Machine

/-- The pseudocode of 41_clear_home.md R80: the settle delay follows whatever the transmission's status. -/
def opClear (s : State) : Status × State :=
  let r := tx .cmd clearDisplayByte s
  (r.1, emit (.delay Params.tClear) r.2)

/-- The pseudocode of 41_clear_home.md R81: the settle delay follows whatever the transmission's status. -/
def opHome (s : State) : Status × State :=
  let r := tx .cmd returnHomeByte s
  (r.1, emit (.delay Params.tHome) r.2)

/-- CLEAR (41_clear_home.md R80). -/
def execClear (s : State) : Host.Outcome State Fault Refusal := perform opClear s

/-- HOME (41_clear_home.md R81). -/
def execHome (s : State) : Host.Outcome State Fault Refusal := perform opHome s

end Sys2Proof.Machine
end

