-- ==== Sys2Proof/Machine/FunctionEntry.lean ====
section
/-! DEFINITION. FUNCTION_SET and ENTRY_MODE_SET (45_function_set_entry_mode.md). -/

namespace Sys2Proof.Machine

/-- The pseudocode of 45_function_set_entry_mode.md R105: validate, cache, send. -/
def opFunctionSet (s : State) : Status × State :=
  if configOk s then
    let s := { s with fss := packFss s.cfgBus s.cfgLines s.cfgFont s.cfgAlpha }
    tx .cmd (functionSetByte s.fss) s
  else raise .invalidArgument s

/-- The pseudocode of 45_function_set_entry_mode.md R107: the cache is written on every call. -/
def opEntryModeSet (id sh : BitVec 1) (s : State) : Status × State :=
  let s := { s with ems := packEms id sh }
  tx .cmd (entryModeByte s.ems) s

/-- FUNCTION_SET (45_function_set_entry_mode.md R105). -/
def execFunctionSet (s : State) : Host.Outcome State Fault Refusal := perform opFunctionSet s

/-- ENTRY_MODE_SET (45_function_set_entry_mode.md R107). -/
def execEntryModeSet (id sh : BitVec 1) (s : State) : Host.Outcome State Fault Refusal :=
  perform (opEntryModeSet id sh) s

end Sys2Proof.Machine
end

