-- ==== Sys2Proof/Machine/Init.lean ====
section
/-! DEFINITION. INIT (40_init.md). -/

namespace Sys2Proof.Machine

/-- INIT's preconditions: every primitive present and a legal line count (40_init.md R75). -/
def initReady (s : State) : Bool := decide (s.bind = Params.bindComplete) && linesOk s

/-- Step 3 of INIT: the cache becomes display on, cursor off, blink off (40_init.md R76). -/
def dcsAfterInit : BitVec 3 := 0b100#3

/-- The pseudocode of 40_init.md R76. -/
def opInit (s : State) : Status × State :=
  if initReady s then
    andThen (opFunctionSet (emit (.delay Params.tPower) s)) fun s =>
    andThen (tx .cmd (displayControlByte dcsAfterInit) { emit (.delay Params.tFset) s with dcs := dcsAfterInit }) fun s =>
    andThen (opClear (emit (.delay Params.tDctl) s)) fun s =>
    opEntryModeSet 1#1 0#1 s
  else raise .invalidArgument s

/-- INIT (40_init.md R76). -/
def execInit (s : State) : Host.Outcome State Fault Refusal := perform opInit s

end Sys2Proof.Machine
end

