-- ==== Sys2Proof/Machine/RegisterAccess.lean ====
section
/-! DEFINITION. CFGW and REGRD (46_register_access.md). -/

namespace Sys2Proof.Machine

/-- The pseudocode of 46_register_access.md R109: indices 0 to 3 are written, any other fails. -/
def opCfgw (idx : BitVec 4) (val : Byte) (s : State) : Status × State :=
  match (regAt idx).bind (writeReg · val s) with
  | some t => (.ok, t)
  | none => raise .invalidArgument s

/-- CFGW (46_register_access.md R109). -/
def execCfgw (idx : BitVec 4) (val : Byte) (s : State) : Host.Outcome State Fault Refusal :=
  perform (opCfgw idx val) s

/-- REGRD: the register's value, zero-extended, on `RSP_RDATA`; an index that names none fails with
`rdata = 0x00` (46_register_access.md R110). -/
def execRegrd (idx : BitVec 4) (s : State) : Host.Outcome State Fault Refusal :=
  match regAt idx with
  | some r => finish s (readReg r s) (.ok, s)
  | none => finish s 0x00#8 (raise .invalidArgument s)

end Sys2Proof.Machine
end

