-- ==== Sys2Proof/Machine/Dispatch.lean ====
section
/-! DEFINITION. One arm for each instruction, each a direct call of its meaning. -/

namespace Sys2Proof.Machine

/-- What an instruction does in a state. -/
def exec (i : Instr) (s : State) : Host.Outcome State Fault Refusal :=
  match i with
  | .init => Sys2Proof.Machine.execInit s
  | .clear => Sys2Proof.Machine.execClear s
  | .home => Sys2Proof.Machine.execHome s
  | .entryModeSet id sh => Sys2Proof.Machine.execEntryModeSet id sh s
  | .displayOn => Sys2Proof.Machine.execDisplayOn s
  | .displayOff => Sys2Proof.Machine.execDisplayOff s
  | .cursorOn => Sys2Proof.Machine.execCursorOn s
  | .cursorOff => Sys2Proof.Machine.execCursorOff s
  | .blinkOn => Sys2Proof.Machine.execBlinkOn s
  | .blinkOff => Sys2Proof.Machine.execBlinkOff s
  | .setDdramAddr addr => Sys2Proof.Machine.execSetDdramAddr addr s
  | .print bytes => Sys2Proof.Machine.execPrint bytes s
  | .functionSet => Sys2Proof.Machine.execFunctionSet s
  | .cfgw idx val => Sys2Proof.Machine.execCfgw idx val s
  | .regrd idx => Sys2Proof.Machine.execRegrd idx s
  | .busClearDisplay => Sys2Proof.Machine.execBusClearDisplay s
  | .busReturnHome => Sys2Proof.Machine.execBusReturnHome s
  | .busEntryModeSet j sh => Sys2Proof.Machine.execBusEntryModeSet j sh s
  | .busDisplayControl d c b => Sys2Proof.Machine.execBusDisplayControl d c b s
  | .busFunctionSet l n f a => Sys2Proof.Machine.execBusFunctionSet l n f a s
  | .busSetDdramAddress a => Sys2Proof.Machine.execBusSetDdramAddress a s
  | .busDataWrite d => Sys2Proof.Machine.execBusDataWrite d s

end Sys2Proof.Machine
end

