-- ==== Sys2Proof/Machine/Step.lean ====
section
/-! DEFINITION. One step: reset while `RST` is active; else the byte being transmitted, if there is one; else the
next request of the stream. -/

namespace Sys2Proof.Machine

/-- The next request: decoded, accepted and performed (30_encoding.md R53, R71); an idle block waits
(70_reset_and_hazards.md R133); a PRINT waits for its payload (R146); an illegal word is rejected
(30_encoding.md R68). -/
def stepRequest (s : State) : Host.Outcome State Fault Refusal :=
  match decode (portWords s) with
  | .ok (i, rest) => exec i (accept rest s)
  | .error .noWord => .next s
  | .error (.payloadMissing _) => .next (await s)
  | .error .reservedOp | .error .idxNotZero | .error .argNotZero | .error .notEmitted => .next (rejectWord s)

/-- The byte being transmitted (log 7): it is one of the bus rows, or a byte no row has, which `TX` sends all the
same (44_transmit_strobe.md R96). -/
def stepBus (b : BusByte) (s : State) : Host.Outcome State Fault Refusal :=
  match decodeBus b with
  | .ok i => exec i { s with txByte := none }
  | .error _ => transmit b { s with txByte := none }

/-- One step of the block: one request is one step (00_scope.md R6). -/
def step (s : State) : Host.Outcome State Fault Refusal :=
  if s.rst then .next (holdReset s)
  else
    match s.txByte with
    | some b => stepBus b s
    | none => stepRequest s

/-- `s` with the instruction of an opcode-table word placed where the next step fetches it: a request word with
its payload (words of zeros) put at the head of the request stream of an idle block; a bus byte as the byte being
transmitted (log 5, log 7). -/
def State.withFetchWord (s : State) (nbits w : Nat) : State :=
  let ws := tableWords nbits w
  let idle := { s with rst := false, busy := false, accepted := [], txByte := none }
  match decode ws with
  | .ok (_, rest) => { idle with requests := ws.take (ws.length - rest.length) ++ s.requests }
  | .error _ => if w < 512 then { idle with txByte := some (BitVec.ofNat 9 w) } else { idle with requests := ws.take 1 ++ s.requests }

end Sys2Proof.Machine
end

