-- ==== Sys2Proof/Machine/Views.lean ====
section
/-! DEFINITION. Views of an event list: strobes, minimum time, whole pulses, and what stands on the wires when the
strobe is pulsed. None of them is state; each is computed from the events (92_eei_decisions.md D23). -/

namespace Sys2Proof.Machine

/-- How many strobe pulses a list holds: its `E(1)` events (44_transmit_strobe.md R100). -/
def strobes (es : List Event) : Nat := es.countP (fun e => decide (e = .e true))

/-- The delay an event asks for, in microseconds. -/
def delayOf : Event → Nat
  | .delay d => d
  | .data _ | .rs _ | .rw _ | .e _ => 0

/-- The sum of the `DELAY` arguments, the minimum time (70_reset_and_hazards.md R145). -/
def minTime (es : List Event) : Nat := (es.map delayOf).sum

/-- Every `E` event belongs to a whole pulse: the six events of `PULSE` together, in order, with nothing between
them (44_transmit_strobe.md R99). -/
def pulsesWhole : List Event → Bool
  | .e a :: .delay x :: .e b :: .delay y :: .e c :: .delay z :: es =>
    decide ((a, x, b, y, c, z) = (false, Params.tELow, true, Params.tEHigh, false, Params.tEHold)) && pulsesWhole es
  | .e _ :: _ => false
  | .delay _ :: es | .data _ :: es | .rs _ :: es | .rw _ :: es => pulsesWhole es
  | [] => true

/-- The latches after a list of events (10_state.md R28). -/
def drivenPins (p : Pins) (es : List Event) : Pins := es.foldl drive p

/-- What stands on the wires when the strobe is pulsed (30_encoding.md R58). -/
structure Transfer where
  rs : Bool
  rw : Bool
  data : Byte
  deriving DecidableEq, Repr

/-- The transfers of a list of events, the latches being `p` before it: one for each `E(1)`. The wires are
constant over the pulse, so the edge that latches does not matter (44_transmit_strobe.md R99, log 10). -/
def transfers (p : Pins) : List Event → List Transfer
  | [] => []
  | e :: es =>
    let q := drive p e
    if e = .e true then ⟨q.rs, q.rw, q.data⟩ :: transfers q es else transfers q es

/-- The four wires of a 4-bit bus: bits 3:0 of the value presented (20_memory.md R44). -/
def wireNibble (v : Byte) : BitVec 4 := v.extractLsb' 0 4

/-- Two transfers of a 4-bit bus are one byte, high nibble first (20_memory.md R42). DESIGN CHOICE (unsafe, log 18): the
pairing begins afresh with the list, and a nibble left alone at its end is no byte; what a controller that an `RST` in
mid-byte left out of step receives is open (70_reset_and_hazards.md R144, 91_not_in_source.md N10). -/
def pairNibbles : List Transfer → List BusByte
  | a :: b :: ts => (BitVec.ofBool a.rs ++ wireNibble a.data ++ wireNibble b.data) :: pairNibbles ts
  | [_] | [] => []

/-- The bus bytes `{RS, DB7..DB0}` that the controller receives over a bus of the width `bus` names. DESIGN CHOICE
(unsafe, log 17): the controller reads at that width; the spec leaves open what a controller last told another width
makes of the transfers (93_implementation_defined.md U8, 70_reset_and_hazards.md R143). -/
def busBytes (bus : Byte) (ts : List Transfer) : List BusByte :=
  if bus = Params.bus8 then ts.map (fun t => BitVec.ofBool t.rs ++ t.data)
  else if bus = Params.bus4 then pairNibbles ts
  else []

/-- The bytes received over the events that took a state `s` to a state `t`, read at the width `CFG_BUS` names in `s`
even where that differs from the width the controller was last told: DESIGN CHOICE (unsafe, log 17). The controller is
taken as ready at every strobe and as in step at the first: DESIGN CHOICES (unsafe, logs 19 and 18), since the spec
leaves open what a busy one loses (60_exceptions.md R130, 93_implementation_defined.md U9). -/
def receivedBytes (s t : State) : List BusByte :=
  busBytes s.cfgBus (transfers s.pins (t.events.drop s.events.length))

end Sys2Proof.Machine
end

