-- ==== Sys2Proof/Machine/Abandon.lean ====
section
/-! DEFINITION. `RST` becoming active in the middle of an operation (70_reset_and_hazards.md R131). -/

namespace Sys2Proof.Machine

/-- The step that would be taken in `s`, abandoned where it stands because `RST` becomes active after `k` of its
events: those events stay emitted and have driven their latches, no further event follows, no response is given,
and reset is held (70_reset_and_hazards.md R131; log 9). The words the operation accepted stay accepted. -/
def resetDuring (k : Nat) (s : State) : Host.Outcome State Fault Refusal :=
  match step s with
  | .next t =>
    let es := (t.events.drop s.events.length).take k
    .next (holdReset { s with
      rst := true, requests := t.requests, events := s.events ++ es, pins := drivenPins s.pins es })
  | .fault f => .fault f
  | .refused r => .refused r

end Sys2Proof.Machine
end

