-- ==== Sys2Proof/Machine/Assembler.lean ====
section
/-! DEFINITION. The text form of a program (30_encoding.md R72) and its pseudo-instructions (R73), assembled into
request words. The text is a list of characters, so that the kernel can evaluate it. -/

namespace Sys2Proof.Machine.Assembler

/-- A blank inside a line. -/
def isBlank (c : Char) : Bool := c = ' ' || c = '\t' || c = '\r'

/-- The quote that opens and closes a text operand. -/
def quote : Char := Char.ofNat 34

/-- A line without its blanks at both ends. -/
def trim (cs : List Char) : List Char := ((cs.dropWhile isBlank).reverse.dropWhile isBlank).reverse

/-- The pieces of a text between occurrences of a character. -/
def splitAt (c : Char) : List Char → List (List Char)
  | [] => [[]]
  | x :: xs =>
    if x = c then [] :: splitAt c xs
    else
      match splitAt c xs with
      | [] => [[x]]
      | y :: ys => (x :: y) :: ys

/-- A line without its comment, which runs from `;` to the end of the line; a `;` inside a text operand opens no
comment (log 14). -/
def stripComment (inText : Bool) : List Char → List Char
  | [] => []
  | c :: cs =>
    if c = ';' && !inText then [] else c :: stripComment (if c = quote then !inText else inText) cs

/-- The value of a digit. -/
def digitValue (c : Char) : Nat :=
  if '0' ≤ c && c ≤ '9' then c.toNat - 48
  else if 'a' ≤ c && c ≤ 'f' then c.toNat - 87
  else if 'A' ≤ c && c ≤ 'F' then c.toNat - 55
  else 99

/-- A nonempty run of digits in a base. -/
def digits (base : Nat) (cs : List Char) : Option Nat :=
  if cs.isEmpty then none
  else
    cs.foldl (fun acc c => acc.bind fun n => if digitValue c < base then some (n * base + digitValue c) else none)
      (some 0)

/-- A number: decimal, or hexadecimal after `0x`, or binary after `0b` (30_encoding.md R72). -/
def number (cs : List Char) : Option Nat :=
  match cs with
  | '0' :: 'x' :: ds => digits 16 ds
  | '0' :: 'b' :: ds => digits 2 ds
  | _ => digits 10 cs

/-- A number that fits a field of `n` bits. -/
def field (n : Nat) (cs : List Char) : Option (BitVec n) :=
  (number cs).bind fun v => if v < 2 ^ n then some (BitVec.ofNat n v) else none

/-- The names of the registers (30_encoding.md R72). -/
def regNames : List (List Char × BitVec 4) :=
  [("LINES".toList, 0#4), ("FONT".toList, 1#4), ("BUS".toList, 2#4), ("ALPHA".toList, 3#4),
   ("EMS".toList, 4#4), ("DCS".toList, 5#4), ("FSS".toList, 6#4), ("BIND".toList, 7#4)]

/-- A register operand: a name or an index 0 to 15. -/
def register (cs : List Char) : Option (BitVec 4) := (regNames.lookup cs).orElse fun _ => field 4 cs

/-- The mnemonics of the operations without an operand (30_encoding.md R72). -/
def plainNames : List (List Char × Instr) :=
  [("INIT".toList, .init), ("CLEAR".toList, .clear), ("HOME".toList, .home), ("DISPLAY_ON".toList, .displayOn),
   ("DISPLAY_OFF".toList, .displayOff), ("CURSOR_ON".toList, .cursorOn), ("CURSOR_OFF".toList, .cursorOff),
   ("BLINK_ON".toList, .blinkOn), ("BLINK_OFF".toList, .blinkOff), ("FUNCTION_SET".toList, .functionSet)]

/-- A text operand: the characters between two quotes, each one of `0x20` to `0x7E` by its ASCII code. -/
def textBytes (cs : List Char) : Option (List Byte) :=
  match cs with
  | [] => none
  | q :: rest =>
    let body := rest.takeWhile (fun c => c ≠ quote)
    if q = quote && rest.drop body.length == [quote] && body.all (fun c => 0x20 ≤ c.toNat && c.toNat ≤ 0x7E) then
      some (body.map fun c => BitVec.ofNat 8 c.toNat)
    else none

/-- The instruction of a PRINT of these bytes, when they are at most 255. -/
def printOf (bytes : List Byte) : Option (List Instr) :=
  if bytes.length ≤ printMax then some [.print bytes] else none

/-- `PUTC b` (30_encoding.md R73). -/
def putc (b : Byte) : List Instr := [.print [b]]

/-- `CONFIG lines, font, bus, alpha` (30_encoding.md R73). -/
def config (lines font bus alpha : Byte) : List Instr :=
  [.cfgw 0#4 lines, .cfgw 1#4 font, .cfgw 2#4 bus, .cfgw 3#4 alpha]

/-- The instructions of a line with a mnemonic and its operands (30_encoding.md R72, R73). -/
def instrs (m : List Char) (text : List Char) : Option (List Instr) :=
  let ops := if text.isEmpty then [] else (splitAt ',' text).map trim
  match plainNames.lookup m with
  | some i => if ops.isEmpty then some [i] else none
  | none =>
    if m = "PRINT".toList then
      match textBytes text with
      | some bs => printOf bs
      | none => (ops.mapM (field 8)).bind printOf
    else if m = "ENTRY_MODE_SET".toList then
      match ops with
      | [a, b] => (field 1 a).bind fun id => (field 1 b).map fun s => [.entryModeSet id s]
      | _ => none
    else if m = "SET_DDRAM_ADDR".toList then
      match ops with
      | [a] => (field 8 a).map fun addr => [.setDdramAddr addr]
      | _ => none
    else if m = "CFGW".toList then
      match ops with
      | [r, v] => (register r).bind fun idx => (field 8 v).map fun val => [.cfgw idx val]
      | _ => none
    else if m = "REGRD".toList then
      match ops with
      | [r] => (register r).map fun idx => [.regrd idx]
      | _ => none
    else if m = "PUTC".toList then
      match ops with
      | [b] => (field 8 b).map putc
      | _ => none
    else if m = "CONFIG".toList then
      match ops.mapM (field 8) with
      | some [l, f, b, a] => some (config l f b a)
      | _ => none
    else none

/-- The words of one line; `none` for a line that is not of the syntax. -/
def line (cs : List Char) : Option (List Word) :=
  let body := trim (stripComment false cs)
  if body.isEmpty then some []
  else
    let m := body.takeWhile (fun c => !isBlank c)
    let text := trim (body.drop m.length)
    if m = ".word".toList then (field 16 text).map fun w => [w]
    else (instrs m text).map fun is => is.flatMap encode

/-- The words of a program text (30_encoding.md R72). -/
def assemble (cs : List Char) : Option (List Word) := ((splitAt '\n' cs).mapM line).map List.flatten

end Sys2Proof.Machine.Assembler
end

