-- ==== Sys2Proof/Safety.lean ====
section
/-! DEFINITION. What every step keeps, and what a run must respect so that no value the model names for a register
after reset can show in it. -/

namespace Sys2Proof.Safety

open Sys2Proof.Machine

/-- The request port is idle, or holds a PRINT header and fewer payload words than its count; `BUSY` says which
(30_encoding.md R53). -/
def portOk (s : State) : Bool :=
  match s.accepted with
  | [] => !s.busy
  | w :: ps => s.busy && decide (ps.length < payloadLength w)

/-- The block never drives `RW` to 1 (00_scope.md R12, 20_memory.md R41). -/
def neverReads (es : List Event) : Bool := !es.contains (.rw true)

/-- What every step and every move of the outside keep, `RST` in the middle of an operation among them: the port is
idle or inside a PRINT; no byte is half sent between steps (10_state.md R33); the bus is never read
(20_memory.md R41); the latches are a view of the event list (92_eei_decisions.md D23). -/
abbrev CutInv (s : State) : Prop :=
  portOk s = true ∧ s.txByte = none ∧ neverReads s.events = true ∧
    s.pins = drivenPins State.reset.pins s.events

/-- What every step keeps: `CutInv`, and every strobe pulse is whole (44_transmit_strobe.md R99). An `RST` in the
middle of an operation may cut a pulse (70_reset_and_hazards.md R131, log 9), so it keeps `CutInv` only. -/
abbrev Inv (s : State) : Prop := CutInv s ∧ pulsesWhole s.events = true

/-- The block is idle and may accept a request: no reset, no byte being sent, no open PRINT. -/
abbrev Idle (s : State) : Prop := s.rst = false ∧ s.txByte = none ∧ s.accepted = []

/-- The registers an operation reads (10_state.md R29, R36; 40_init.md R76). -/
def reads : Instr → List Reg
  | .init => [.bind, .cfgLines, .cfgFont, .cfgBus, .cfgAlpha]
  | .clear | .home | .entryModeSet _ _ => [.cfgBus]
  | .displayOn | .displayOff | .cursorOn | .cursorOff | .blinkOn | .blinkOff => [.dcs, .cfgBus]
  | .setDdramAddr addr => if Params.ddramMax < addr then [] else [.cfgBus]
  | .print bytes => if bytes.isEmpty then [] else [.cfgBus]
  | .functionSet => [.cfgLines, .cfgFont, .cfgBus, .cfgAlpha]
  | .cfgw _ _ => []
  | .regrd idx => (regAt idx).toList
  | .busClearDisplay | .busReturnHome | .busEntryModeSet _ _ | .busDisplayControl _ _ _
  | .busFunctionSet _ _ _ _ | .busSetDdramAddress _ | .busDataWrite _ => [.cfgBus]

/-- The registers an operation writes (10_state.md R29). -/
def writes (i : Instr) (s : State) : List Reg :=
  match i with
  | .init => if initReady s && configOk s then [.fss, .dcs, .ems] else []
  | .entryModeSet _ _ => [.ems]
  | .displayOn | .displayOff | .cursorOn | .cursorOff | .blinkOn | .blinkOff => [.dcs]
  | .functionSet => if configOk s then [.fss] else []
  | .cfgw idx _ => ((regAt idx).filter (fun r => (writeReg r 0#8 s).isSome)).toList
  | .clear | .home | .setDdramAddr _ | .print _ | .regrd _ => []
  | .busClearDisplay | .busReturnHome | .busEntryModeSet _ _ | .busDisplayControl _ _ _
  | .busFunctionSet _ _ _ _ | .busSetDdramAddress _ | .busDataWrite _ => []

/-- A safe request reads only registers of which `known` says that they have been written since reset
(10_state.md R36, 93_implementation_defined.md U1): right after reset `known` is `[.bind]`, and a request adds
the registers it writes. -/
def safeRequest (known : List Reg) (i : Instr) : Bool := (reads i).all (fun r => known.contains r)

/-- Two states agree on the registers of `known` and on everything that is no register. -/
abbrev AgreeOn (known : List Reg) (s t : State) : Prop :=
  (∀ r ∈ known, readReg r s = readReg r t) ∧ s.pins = t.pins ∧ s.busy = t.busy ∧ s.bind = t.bind ∧
    s.rst = t.rst ∧ s.requests = t.requests ∧ s.accepted = t.accepted ∧ s.txByte = t.txByte ∧ s.rp = t.rp ∧
    s.events = t.events ∧ s.responses = t.responses

/-- The run is over: every request word has been taken and the last response given (70_reset_and_hazards.md
R146). -/
def runOver (s : State) : Bool := s.requests.isEmpty && !s.busy

end Sys2Proof.Safety
end

