-- ==== Sys2Proof/Certificates/Slice0/Obligations.lean ====
section
/-! DEFINITION. The statements for the provers. The first part writes down, once and from the spec's tables and
event lists alone, what the statements compare the machine with. -/

namespace Sys2Proof.Spec

open Sys2Proof.Machine

/-- `P`, the six events of one strobe pulse (40_init.md R79, 44_transmit_strobe.md R98). -/
def pulse : List Event := [.e false, .delay 1, .e true, .delay 1, .e false, .delay 100]

/-- The three event lists of a transmission (44_transmit_strobe.md R102); `rs` is 0 for a command, 1 for data. -/
def transmission (bus : Byte) (rs : Bool) (b : Byte) : List Event :=
  if bus = 0x01#8 then [.rs rs, .rw false, .data b] ++ pulse
  else if bus = 0x00#8 then [.rs rs, .rw false, .data (b >>> 4)] ++ pulse ++ [.data b] ++ pulse
  else [.rs rs, .rw false]

/-- The status of a transmission (44_transmit_strobe.md R97). -/
def txStatus (bus : Byte) : Status := if bus = 0x01#8 ∨ bus = 0x00#8 then .ok else .fail

/-- The pin latches after a transmission (44_transmit_strobe.md R101). -/
def pinsAfter (bus : Byte) (rs : Bool) (b : Byte) (p : Pins) : Pins :=
  if bus = 0x01#8 ∨ bus = 0x00#8 then ⟨rs, false, false, b⟩ else ⟨rs, false, p.e, p.data⟩

/-- The bit of `BIND` for each event's primitive (10_state.md R27). -/
def primitiveBit : Event → Nat
  | .delay _ => 0
  | .data _ => 1
  | .rs true => 2
  | .rs false => 3
  | .rw true => 4
  | .rw false => 5
  | .e true => 6
  | .e false => 7

/-- Every event of the list calls a primitive that is present (10_state.md R27). -/
def present (bind : Byte) (es : List Event) : Bool := es.all fun e => bind.getLsbD (primitiveBit e)

/-- `s` after an operation that emitted `es`, left the latches at `p` and answered `st / v`; everything else is as
before. -/
def answered (s : State) (es : List Event) (p : Pins) (st : Status) (v : Byte) : State :=
  { s with events := s.events ++ es, pins := p, responses := s.responses ++ [⟨st, v⟩], busy := false }

/-- `s` after a request that failed before any effect. -/
def failed (s : State) (st : Status) : State := answered s [] s.pins st 0x00#8

/-- The events of a list of transmissions in data mode. -/
def dataTransmissions (bus : Byte) : List Byte → List Event
  | [] => []
  | b :: bs => transmission bus true b ++ dataTransmissions bus bs

/-- The events emitted between `s` and `t`. -/
def newEvents (s t : State) : List Event := t.events.drop s.events.length

/-- The match and mask columns of 30_encoding.md R55. -/
def rows : List (Word × Word) :=
  [(0x0000#16, 0xFFFF#16), (0x1000#16, 0xFFFF#16), (0x2000#16, 0xFFFF#16), (0x3000#16, 0xFFFC#16),
   (0x4000#16, 0xFFFF#16), (0x5000#16, 0xFFFF#16), (0x6000#16, 0xFFFF#16), (0x7000#16, 0xFFFF#16),
   (0x8000#16, 0xFFFF#16), (0x9000#16, 0xFFFF#16), (0xA000#16, 0xFF00#16), (0xB000#16, 0xFF00#16),
   (0xC000#16, 0xFFFF#16), (0xD000#16, 0xF000#16), (0xE000#16, 0xF0FF#16)]

/-- A word that matches a row of 30_encoding.md R55. -/
def matchesRow (w : Word) : Bool := rows.any fun r => decide (w &&& r.2 = r.1)

/-- The set of command bytes the block can ever emit (30_encoding.md R69). -/
def commandByte (b : Byte) : Bool :=
  decide (b.toNat = 0x01) || decide (b.toNat = 0x02) || decide (0x04 ≤ b.toNat ∧ b.toNat ≤ 0x0F)
    || decide (0x20 ≤ b.toNat ∧ b.toNat ≤ 0x3F) || decide (0x80 ≤ b.toNat)

/-- Legal values of the four configuration registers (45_function_set_entry_mode.md R103). -/
def legalLines (v : Byte) : Bool := decide (v = 0x01#8) || decide (v = 0x02#8)

/-- Legal values of `CFG_BUS` (45_function_set_entry_mode.md R103). -/
def legalBus (v : Byte) : Bool := decide (v = 0x00#8) || decide (v = 0x01#8)

/-- Legal values of `CFG_FONT` (45_function_set_entry_mode.md R103). -/
def legalFont (v : Byte) : Bool := decide (v = 0x00#8) || decide (v = 0x01#8)

/-- Legal values of `CFG_ALPHA` (45_function_set_entry_mode.md R103). -/
def legalAlpha (v : Byte) : Bool := decide (v.toNat ≤ 3)

/-- All four in their domains (45_function_set_entry_mode.md R103). -/
def legalConfig (s : State) : Bool :=
  legalBus s.cfgBus && legalLines s.cfgLines && legalFont s.cfgFont && legalAlpha s.cfgAlpha

/-- `0x20 | (DL << 4) | (N << 3) | (F << 2) | A` as a number without its opcode bit, with `N` the line count less
one (45_function_set_entry_mode.md R104, 90_conflicts.md C1). -/
def fssNumber (s : State) : Nat :=
  16 * s.cfgBus.toNat + 8 * (s.cfgLines.toNat - 1) + 4 * s.cfgFont.toNat + s.cfgAlpha.toNat

/-- The event lists of a successful INIT (40_init.md R79); `fs` is the Function Set byte. -/
def initEvents (bus fs : Byte) : List Event :=
  if bus = 0x01#8 then
    [.delay 50000,
      .rs false, .rw false, .data fs] ++ pulse ++ [.delay 4500,
      .rs false, .rw false, .data 0x0C#8] ++ pulse ++ [.delay 4500,
      .rs false, .rw false, .data 0x01#8] ++ pulse ++ [.delay 7000,
      .rs false, .rw false, .data 0x06#8] ++ pulse
  else
    [.delay 50000,
      .rs false, .rw false, .data (fs >>> 4)] ++ pulse ++ [.data fs] ++ pulse ++ [.delay 4500,
      .rs false, .rw false, .data 0x00#8] ++ pulse ++ [.data 0x0C#8] ++ pulse ++ [.delay 4500,
      .rs false, .rw false, .data 0x00#8] ++ pulse ++ [.data 0x01#8] ++ pulse ++ [.delay 7000,
      .rs false, .rw false, .data 0x00#8] ++ pulse ++ [.data 0x06#8] ++ pulse

/-- The events of each operation, in every state, whether it succeeds or fails (the rules of files 40 to 46;
60_exceptions.md R121; for the bus rows log 7). -/
def operationEvents (i : Instr) (s : State) : List Event :=
  let send (b : Nat) := transmission s.cfgBus false (BitVec.ofNat 8 b)
  match i with
  | .init =>
    if s.bind = 0xFF#8 ∧ legalLines s.cfgLines = true then
      if legalConfig s then initEvents s.cfgBus (BitVec.ofNat 8 (0x20 + fssNumber s)) else [.delay 50000]
    else []
  | .clear => send 0x01 ++ [.delay 7000]
  | .home => send 0x02 ++ [.delay 2000]
  | .entryModeSet id sh => send (0x04 + 2 * id.toNat + sh.toNat)
  | .displayOn => send (0x08 + (s.dcs ||| 0b100#3).toNat)
  | .displayOff => send (0x08 + (s.dcs &&& 0b011#3).toNat)
  | .cursorOn => send (0x08 + (s.dcs ||| 0b010#3).toNat)
  | .cursorOff => send (0x08 + (s.dcs &&& 0b101#3).toNat)
  | .blinkOn => send (0x08 + (s.dcs ||| 0b001#3).toNat)
  | .blinkOff => send (0x08 + (s.dcs &&& 0b110#3).toNat)
  | .setDdramAddr addr => if 0x7F < addr.toNat then [] else send (0x80 + addr.toNat)
  | .print bytes => dataTransmissions s.cfgBus bytes
  | .functionSet => if legalConfig s then send (0x20 + fssNumber s) else []
  | .cfgw _ _ | .regrd _ => []
  | .busClearDisplay => send 0x01
  | .busReturnHome => send 0x02
  | .busEntryModeSet j sh => send (0x04 + 2 * j.toNat + sh.toNat)
  | .busDisplayControl d c b => send (0x08 + 4 * d.toNat + 2 * c.toNat + b.toNat)
  | .busFunctionSet l n f a => send (0x20 + 16 * l.toNat + 8 * n.toNat + 4 * f.toNat + a.toNat)
  | .busSetDdramAddress a => send (0x80 + a.toNat)
  | .busDataWrite d => transmission s.cfgBus true d

/-- The six display-control operations: the instruction, its request word, its bit of `DCS`, its direction, and
the new `DCS` (42_display_control.md R84 to R89). -/
def displayOps (dcs : BitVec 3) : List (Instr × Word × Nat × Bool × BitVec 3) :=
  [(.displayOn, 0x4000#16, 2, true, dcs ||| 0b100#3), (.displayOff, 0x5000#16, 2, false, dcs &&& 0b011#3),
   (.cursorOn, 0x6000#16, 1, true, dcs ||| 0b010#3), (.cursorOff, 0x7000#16, 1, false, dcs &&& 0b101#3),
   (.blinkOn, 0x8000#16, 0, true, dcs ||| 0b001#3), (.blinkOff, 0x9000#16, 0, false, dcs &&& 0b110#3)]

/-- Whether an instruction is one of the six. -/
def isDisplayOp (i : Instr) : Bool := (displayOps 0#3).any fun r => decide (r.1 = i)

/-- `RS` and the byte of each bus row (30_encoding.md R60 to R66). -/
def busRow : Instr → Bool × Byte
  | .busClearDisplay => (false, 0x01#8)
  | .busReturnHome => (false, 0x02#8)
  | .busEntryModeSet i s => (false, BitVec.ofNat 8 (0x04 + 2 * i.toNat + s.toNat))
  | .busDisplayControl d c b => (false, BitVec.ofNat 8 (0x08 + 4 * d.toNat + 2 * c.toNat + b.toNat))
  | .busFunctionSet l n f a =>
    (false, BitVec.ofNat 8 (0x20 + 16 * l.toNat + 8 * n.toNat + 4 * f.toNat + a.toNat))
  | .busSetDdramAddress a => (false, BitVec.ofNat 8 (0x80 + a.toNat))
  | .busDataWrite d => (true, d)
  | _ => (false, 0x00#8)

/-- Bytes per operation (44_transmit_strobe.md R100). -/
def bytesSent : Instr → Nat
  | .init => 4
  | .print bytes => bytes.length
  | .cfgw _ _ | .regrd _ => 0
  | _ => 1

/-- The minimum time of an operation that returns `Ok` (70_reset_and_hazards.md R145). -/
def timeOf (bus : Byte) (i : Instr) : Nat :=
  let tx := if bus = 0x01#8 then 102 else 204
  match i with
  | .init => 50000 + tx + 4500 + tx + 4500 + (tx + 7000) + tx
  | .clear => 7000 + tx
  | .home => 2000 + tx
  | .print bytes => bytes.length * tx
  | .cfgw _ _ | .regrd _ => 0
  | _ => tx

/-- The events column of the table of failed requests (60_exceptions.md R121). -/
def failEvents (s : State) (i : Instr) (st : Status) : List Event :=
  match st, i with
  | .fail, .clear => [.rs false, .rw false, .delay 7000]
  | .fail, .home => [.rs false, .rw false, .delay 2000]
  | .fail, .print bytes => bytes.flatMap fun _ => [.rs true, .rw false]
  | .fail, _ => [.rs false, .rw false]
  | _, .init => if s.bind = 0xFF#8 ∧ legalLines s.cfgLines = true then [.delay 50000] else []
  | _, _ => []

/-- The value of the register an index names, zero-extended (10_state.md R29, 46_register_access.md R110). -/
def indexValue (s : State) : Nat → Byte
  | 0 => s.cfgLines
  | 1 => s.cfgFont
  | 2 => s.cfgBus
  | 3 => s.cfgAlpha
  | 4 => BitVec.ofNat 8 s.ems.toNat
  | 5 => BitVec.ofNat 8 s.dcs.toNat
  | 6 => BitVec.ofNat 8 s.fss.toNat
  | _ => s.bind

end Sys2Proof.Spec

open Sys2Proof Sys2Proof.Machine Sys2Proof.Safety

/-! ## Reset, the request port and the step -/

/-- What 10_state.md R34 gives of the state after reset: `BUSY = 0`, `rp = 0`, and, by 70_reset_and_hazards.md R131
and R132, no operation in progress, no response pending, nothing sent. (Register values: logs 1 and 2, not stated.) -/
def Obligations.ResetLeavesBlockIdle : Prop :=
  State.reset.busy = false ∧ State.reset.rp = 0 ∧ State.reset.accepted = [] ∧ State.reset.txByte = none ∧
    State.reset.responses = [] ∧ State.reset.events = [] ∧ State.reset.rst = false

/-- 70_reset_and_hazards.md R131: while `RST` is active no request is accepted and no event emitted, and on release
the block is idle; an operation that `RST` meets after `k` of its events is abandoned there: these events stay, no
further event follows, no response is given. The model's choices: `RST` is a level that stays until released (log 8);
a cut falls between two events of a step, and the words the abandoned operation accepted are gone from the stream
(log 9; for an open PRINT log 6). -/
def Obligations.ActiveResetAbandonsAndIdles : Prop :=
  (∀ s : State, s.rst = true → ∃ t, step s = .next t ∧ t.requests = s.requests ∧ t.events = s.events ∧
    t.responses = s.responses ∧ t.rst = true ∧ t.busy = false ∧ Idle (setRst false t)) ∧
  (∀ (k : Nat) (s t : State), step s = .next t →
    ∃ u, resetDuring k s = .next u ∧ u.events = s.events ++ (Spec.newEvents s t).take k ∧
      u.responses = s.responses ∧ u.requests = t.requests ∧ u.busy = false ∧ step u = .next u ∧
      Idle (setRst false u))

/-- 70_reset_and_hazards.md R133: an idle block without a request word waits. -/
def Obligations.IdleBlockWaits : Prop :=
  ∀ s : State, Idle s → s.requests = [] → step s = .next s

/-- A step is `exec` of the decoded request, on the state in which its words have been accepted: the stream is what
follows them, `BUSY = 1`, and `rp` counts them (30_encoding.md R53, R71; 10_state.md R31). -/
def Obligations.StepRunsDecodedRequest : Prop :=
  ∀ (s : State) (i : Instr) (rest : List Word), Idle s → decode s.requests = .ok (i, rest) →
    step s = exec i { s with
      requests := rest, busy := true, rp := s.rp + (s.requests.length - rest.length) }

/-- A step with a byte being transmitted is `exec` of its bus row (log 7). -/
def Obligations.StepSendsBusByte : Prop :=
  ∀ (s : State) (i : Instr), s.rst = false → i.isHost = false → s.txByte = some (encodeBus i) →
    step s = exec i { s with txByte := none }

/-- 30_encoding.md R68: a word that matches no row of R55 is one request of one word, answered `InvalidArgument / 0`,
without event or register change; a word that matches a row is not illegal. -/
def Obligations.IllegalWordIsRejected : Prop :=
  (∀ (s : State) (w : Word) (ws : List Word), Idle s → s.requests = w :: ws → Spec.matchesRow w = false →
    step s = .next { s with
      requests := ws, rp := s.rp + 1, busy := false,
      responses := s.responses ++ [⟨.invalidArgument, 0x00#8⟩] }) ∧
  (∀ (w : Word) (ws : List Word), Spec.matchesRow w = true →
    (∃ i, decode (w :: ws) = .ok (i, ws.drop (payloadLength w))) ∨
      (∃ n, decode (w :: ws) = .error (.payloadMissing n)))

/-- 30_encoding.md R70: every request is one word, PRINT is `1 + n` words with `n = arg`; only a legal PRINT header
has a payload, and `op = 0xB` with `idx ≠ 0` is illegal. -/
def Obligations.RequestLengthIsKnownFromHeader : Prop :=
  ∀ (w : Word) (ws : List Word),
    (∀ i rest, decode (w :: ws) = .ok (i, rest) →
      rest = ws.drop (if w &&& 0xFF00#16 = 0xB000#16 then (w &&& 0x00FF#16).toNat else 0) ∧
      ((∃ bytes, i = .print bytes ∧ bytes.length = (w &&& 0x00FF#16).toNat) ↔ w &&& 0xFF00#16 = 0xB000#16)) ∧
    ((w &&& 0xF000#16 = 0xB000#16 ∧ w &&& 0x0F00#16 ≠ 0#16) → decode (w :: ws) = .error .idxNotZero)

/-- 30_encoding.md R56: after a legal header with count `n` the next `n` words are payload, whatever their bits; bits
7:0 of word `i` are byte `i`, bits 15:8 are ignored. -/
def Obligations.PayloadWordsAreNeverDecoded : Prop :=
  ∀ (n : Byte) (ps rest : List Word), ps.length = n.toNat →
    decode ((0xB000#16 ||| n.setWidth 16) :: (ps ++ rest)) =
      .ok (.print (ps.map fun p => BitVec.ofNat 8 p.toNat), rest)

/-- A PRINT whose payload is not all there takes what there is and waits with `BUSY = 1`, without event or response,
as often as it has to, and is performed when the missing words have come (30_encoding.md R53,
70_reset_and_hazards.md R146; the model's choice of the moment, log 6). -/
def Obligations.PrintWaitsForItsPayload : Prop :=
  (∀ (s : State) (n : Byte) (ps : List Word), Idle s → ps.length < n.toNat →
    s.requests = (0xB000#16 ||| n.setWidth 16) :: ps →
    step s = .next { s with
      requests := [], accepted := s.requests, busy := true, rp := s.rp + (1 + ps.length) }) ∧
  (∀ (s : State) (n : Byte) (ps : List Word), s.rst = false → s.txByte = none →
    s.accepted = (0xB000#16 ||| n.setWidth 16) :: ps → ps.length + s.requests.length < n.toNat →
    step s = .next { s with
      requests := [], accepted := s.accepted ++ s.requests, busy := true, rp := s.rp + s.requests.length }) ∧
  (∀ (s : State) (n : Byte) (ps qs rest : List Word), s.rst = false → s.txByte = none →
    s.accepted = (0xB000#16 ||| n.setWidth 16) :: ps → s.requests = qs ++ rest →
    ps.length + qs.length = n.toNat →
    step s = exec (.print ((ps ++ qs).map fun p => BitVec.ofNat 8 p.toNat))
      { s with requests := rest, accepted := [], busy := true, rp := s.rp + qs.length })

/-- 30_encoding.md R53: a word presented while `BUSY = 1` and no payload is awaited has no effect. The model's choice
(log 5): at any other time it joins the stream, also behind words already offered and while `RST` is active; R53 itself
speaks only of the words the block accepts. -/
def Obligations.OverlappingWordHasNoEffect : Prop :=
  ∀ (s : State) (w : Word),
    ((s.busy = true ∧ s.accepted = []) → present w s = s) ∧
    (¬(s.busy = true ∧ s.accepted = []) → present w s = { s with requests := s.requests ++ [w] })

/-- No request word is lost: what `rp` counts and what the stream still holds add up (10_state.md R31). -/
def Obligations.RequestPointerCountsWords : Prop :=
  ∀ s t : State, Idle s → step s = .next t →
    t.rp + t.requests.length = s.rp + s.requests.length ∧ t.requests.length ≤ s.requests.length

/-- A step changes neither strap nor reset input, and what has been emitted and answered stays (10_state.md R27,
20_memory.md R49, 70_reset_and_hazards.md R131). -/
def Obligations.StepKeepsInputsAndHistory : Prop :=
  ∀ s t : State, step s = .next t →
    t.bind = s.bind ∧ t.rst = s.rst ∧ s.events <+: t.events ∧ s.responses <+: t.responses

/-! ## Encodings -/

/-- Decoding what is encoded gives the instruction back, whatever follows it: every host operation, every operand. -/
def Obligations.DecodeEncodeAgree : Prop :=
  ∀ (i : Instr) (rest : List Word), i.isHost = true → WellFormed i → decode (encode i ++ rest) = .ok (i, rest)

/-- What decodes is a well-formed host operation, and its encoding begins with the word it was read from: a legal
word has one meaning. -/
def Obligations.EncodeDecodeAgree : Prop :=
  ∀ (w : Word) (ws rest : List Word) (i : Instr), decode (w :: ws) = .ok (i, rest) →
    i.isHost = true ∧ WellFormed i ∧ (encode i).head? = some w

/-- The same for bus bytes, both ways; and the bytes that decode are the data bytes and the command bytes of
30_encoding.md R69. -/
def Obligations.BusDecodeEncodeAgree : Prop :=
  (∀ i : Instr, i.isHost = false → decodeBus (encodeBus i) = .ok i) ∧
  (∀ (b : BusByte) (i : Instr), decodeBus b = .ok i → i.isHost = false ∧ encodeBus i = b) ∧
  (∀ b : BusByte, (∃ i, decodeBus b = .ok i) ↔
    (b.getLsbD 8 = true ∨ Spec.commandByte (b.extractLsb' 0 8) = true))

/-- A few words of 30_encoding.md R55 and of 95_test_vectors.md V-DEC. -/
def Obligations.KnownWordsDecode : Prop :=
  decode [0x0000#16] = .ok (.init, []) ∧ decode [0x0001#16] = .error .argNotZero ∧
  decode [0x3003#16] = .ok (.entryModeSet 1#1 1#1, []) ∧ decode [0x3004#16] = .error .argNotZero ∧
  decode [0x9000#16] = .ok (.blinkOff, []) ∧ decode [0xA0FF#16] = .ok (.setDdramAddr 0xFF#8, []) ∧
  decode [0xA1FF#16] = .error .idxNotZero ∧ decode [0xDFFF#16] = .ok (.cfgw 15#4 0xFF#8, []) ∧
  decode [0xEF00#16] = .ok (.regrd 15#4, []) ∧ decode [0xE0FF#16] = .error .argNotZero ∧
  decode [0xF000#16] = .error .reservedOp ∧
  decode [0xB002#16, 0x0041#16, 0x0042#16] = .ok (.print [0x41#8, 0x42#8], []) ∧
  decodeBus 0b000111000#9 = .ok (.busFunctionSet 1#1 1#1 0#1 0#2) ∧ decodeBus 0x003#9 = .error .notEmitted

/-- 30_encoding.md R73: `PUTC b` is `0xB001, b`; `CONFIG` is the four CFGW words in order. -/
def Obligations.PseudoInstructionsExpand : Prop :=
  (∀ b : Byte, (Assembler.putc b).flatMap encode = [0xB001#16, b.setWidth 16]) ∧
  (∀ l f b a : Byte, (Assembler.config l f b a).flatMap encode =
    [0xD000#16 ||| l.setWidth 16, 0xD100#16 ||| f.setWidth 16, 0xD200#16 ||| b.setWidth 16,
      0xD300#16 ||| a.setWidth 16])

/-! ## The byte transmitter -/

/-- 44_transmit_strobe.md R98: `PULSE` is E low, 1 µs, E high, 1 µs, E low, 100 µs, and leaves `PIN_E = 0`. -/
def Obligations.PulseIsFixed : Prop :=
  ∀ s : State, pulse s = { s with events := s.events ++ Spec.pulse, pins := { s.pins with e := false } }

/-- 44_transmit_strobe.md R101 and R102: the event list, the status and the latches of every `TX`, and the counts
and times R102 gives the three lists. -/
def Obligations.TransmitterEmitsTransmission : Prop :=
  (∀ (r : Bool) (b bus : Byte), let es := Spec.transmission bus r b
    (bus = 0x01#8 → es.length = 9 ∧ minTime es = 102) ∧ (bus = 0x00#8 → es.length = 16 ∧ minTime es = 204) ∧
    (Spec.legalBus bus = false → es.length = 2 ∧ minTime es = 0)) ∧
  ∀ (m : TxMode) (b : Byte) (s : State),
    tx m b s = (Spec.txStatus s.cfgBus, { s with
      events := s.events ++ Spec.transmission s.cfgBus (decide (m = .dat)) b,
      pins := Spec.pinsAfter s.cfgBus (decide (m = .dat)) b s.pins })

/-- 20_memory.md R42, R44: over an 8-bit bus, and over the four wires of a 4-bit bus, high nibble first, the byte
received is the byte sent; a failed transmission latches nothing.
That the controller is in step, ready, and reads at the width `CFG_BUS` names is the model's choice (logs 17 to 19). -/
def Obligations.ReceivedByteIsByteSent : Prop :=
  ∀ (m : TxMode) (b : Byte) (s : State),
    receivedBytes s (tx m b s).2 =
      if Spec.legalBus s.cfgBus = true then [BitVec.ofBool (decide (m = .dat)) ++ b] else []

/-- 43_ddram_print.md R93: on the statuses `TX` returns, `OR` is the bitwise OR of the codes, and any other status
marks the whole as failed. -/
def Obligations.StatusOrMarksAnyFailure : Prop :=
  (∀ a b : Status, (a.or b = .ok ↔ a = .ok ∧ b = .ok) ∧ (a.or b = .ok ∨ a.or b = .fail)) ∧
  (∀ a b : Status, (a = .ok ∨ a = .fail) → (b = .ok ∨ b = .fail) → (a.or b).code = a.code ||| b.code)

/-! ## INIT -/

/-- 40_init.md R76, R78, R79: with all primitives and a legal configuration INIT, word `0x0000`, emits the complete
list, primes the three caches, leaves the latches of R78 and answers `Ok`, whatever the caches held; nothing else
changes. The lists have 40 and 68 events, their delays sum to 66408 and 66816 µs, and the high nibble of a 4-bit
Function Set is 2. Failing the precondition it emits nothing, failing in step 2 only the power delay; either way no
register is written. -/
def Obligations.InitRunsWholeSequence : Prop :=
  encode .init = [0x0000#16] ∧
  (∀ fs : Byte, (Spec.initEvents 0x01#8 fs).length = 40 ∧ minTime (Spec.initEvents 0x01#8 fs) = 66408 ∧
    (Spec.initEvents 0x00#8 fs).length = 68 ∧ minTime (Spec.initEvents 0x00#8 fs) = 66816) ∧
  ∀ s : State,
    (s.bind = 0xFF#8 → Spec.legalConfig s = true →
      exec .init s = .next { Spec.answered s
        (Spec.initEvents s.cfgBus (BitVec.ofNat 8 (0x20 + Spec.fssNumber s)))
        ⟨false, false, false, 0x06#8⟩ .ok 0x00#8 with
        fss := BitVec.ofNat 5 (Spec.fssNumber s), dcs := 0b100#3, ems := 0b10#2 }) ∧
    (Spec.legalConfig s = true → s.cfgBus = 0x00#8 →
      BitVec.ofNat 8 (0x20 + Spec.fssNumber s) >>> 4 = 0x02#8) ∧
    ((s.bind ≠ 0xFF#8 ∨ Spec.legalLines s.cfgLines = false) →
      exec .init s = .next (Spec.failed s .invalidArgument)) ∧
    ((s.bind = 0xFF#8 ∧ Spec.legalLines s.cfgLines = true ∧ Spec.legalConfig s = false) →
      exec .init s = .next (Spec.answered s [.delay 50000] s.pins .invalidArgument 0x00#8))

/-- 40_init.md R75: a missing primitive or an illegal line count makes INIT fail without an event; the other three
registers are checked in step 2, after the power delay (R76). -/
def Obligations.InitRejectsBadConfiguration : Prop :=
  ∀ s : State,
    ((s.bind ≠ 0xFF#8 ∨ Spec.legalLines s.cfgLines = false) →
      exec .init s = .next (Spec.failed s .invalidArgument)) ∧
    ((s.bind = 0xFF#8 ∧ Spec.legalLines s.cfgLines = true ∧ Spec.legalConfig s = false) →
      exec .init s = .next (Spec.answered s [.delay 50000] s.pins .invalidArgument 0x00#8))

/-- 40_init.md R77: `Fail` cannot come out of INIT; every failing INIT answers `InvalidArgument`. -/
def Obligations.InitNeverAnswersFail : Prop :=
  ∀ s : State, ∃ t st, exec .init s = .next t ∧ t.responses = s.responses ++ [⟨st, 0x00#8⟩] ∧
    (st = .ok ∨ st = .invalidArgument) ∧ (st = .invalidArgument → t.fss = s.fss ∧ t.dcs = s.dcs ∧ t.ems = s.ems)

/-! ## CLEAR and HOME -/

/-- 41_clear_home.md R80: word `0x1000`; Clear Display is sent, the 7000 µs wait follows whatever the outcome, the
transmission's status is answered, no register changes. -/
def Obligations.ClearSendsAndWaits : Prop :=
  encode .clear = [0x1000#16] ∧
  ∀ s : State, Spec.present s.bind (Spec.transmission s.cfgBus false 0x01#8 ++ [.delay 7000]) = true →
    exec .clear s = .next (Spec.answered s (Spec.transmission s.cfgBus false 0x01#8 ++ [.delay 7000])
      (Spec.pinsAfter s.cfgBus false 0x01#8 s.pins) (Spec.txStatus s.cfgBus) 0x00#8)

/-- 41_clear_home.md R81: word `0x2000`; Return Home is sent, the 2000 µs wait follows whatever the outcome, the
transmission's status is answered, no register changes. -/
def Obligations.HomeSendsAndWaits : Prop :=
  encode .home = [0x2000#16] ∧
  ∀ s : State, Spec.present s.bind (Spec.transmission s.cfgBus false 0x02#8 ++ [.delay 2000]) = true →
    exec .home s = .next (Spec.answered s (Spec.transmission s.cfgBus false 0x02#8 ++ [.delay 2000])
      (Spec.pinsAfter s.cfgBus false 0x02#8 s.pins) (Spec.txStatus s.cfgBus) 0x00#8)

/-! ## Display control -/

/-- 42_display_control.md R83 to R89: each of the six writes its bit of `DCS`, also when the transmission then
fails, sends `0x08 | DCS` with the new `DCS`, answers the transmission's status, and changes nothing else. -/
def Obligations.DisplayControlUpdatesAndSends : Prop :=
  ∀ s : State, ∀ r ∈ Spec.displayOps s.dcs,
    encode r.1 = [r.2.1] ∧
    (Spec.present s.bind (Spec.transmission s.cfgBus false (BitVec.ofNat 8 (0x08 + r.2.2.2.2.toNat))) = true →
      exec r.1 s = .next { Spec.answered s
        (Spec.transmission s.cfgBus false (BitVec.ofNat 8 (0x08 + r.2.2.2.2.toNat)))
        (Spec.pinsAfter s.cfgBus false (BitVec.ofNat 8 (0x08 + r.2.2.2.2.toNat)) s.pins)
        (Spec.txStatus s.cfgBus) 0x00#8 with dcs := r.2.2.2.2 })

/-- 42_display_control.md R90 (a), (b), (d): the operation on bit `k` sets it as it says, leaves the two other bits,
and done twice leaves `DCS` as after the first. -/
def Obligations.DisplayBitsAreIndependent : Prop :=
  ∀ (s t : State), ∀ r ∈ Spec.displayOps s.dcs, exec r.1 s = .next t →
    (∀ j, j < 3 → t.dcs.getLsbD j = if j = r.2.2.1 then r.2.2.2.1 else s.dcs.getLsbD j) ∧
    (∀ u, exec r.1 t = .next u → u.dcs = t.dcs)

/-! ## SET_DDRAM_ADDR and PRINT -/

/-- 43_ddram_print.md R91: an address above `0x7F` fails with `OutOfRange` before anything is sent, even when the
transmission would fail too; any other is sent as `0x80 | addr`; no register changes. -/
def Obligations.SetDdramAddrChecksThenSends : Prop :=
  ∀ (addr : Byte) (s : State),
    encode (.setDdramAddr addr) = [0xA000#16 ||| addr.setWidth 16] ∧
    (0x7F < addr.toNat → exec (.setDdramAddr addr) s = .next (Spec.failed s .outOfRange)) ∧
    (addr.toNat ≤ 0x7F →
      Spec.present s.bind (Spec.transmission s.cfgBus false (BitVec.ofNat 8 (0x80 + addr.toNat))) = true →
      exec (.setDdramAddr addr) s = .next (Spec.answered s
        (Spec.transmission s.cfgBus false (BitVec.ofNat 8 (0x80 + addr.toNat)))
        (Spec.pinsAfter s.cfgBus false (BitVec.ofNat 8 (0x80 + addr.toNat)) s.pins)
        (Spec.txStatus s.cfgBus) 0x00#8))

/-- 43_ddram_print.md R92, R93: every byte is sent in data mode, in order, whatever the earlier statuses; the status
is `Fail` when one transmission failed (so `Ok` without bytes); no register changes. -/
def Obligations.PrintSendsEveryByte : Prop :=
  ∀ (bytes : List Byte) (s : State), Spec.present s.bind (Spec.dataTransmissions s.cfgBus bytes) = true →
    exec (.print bytes) s = .next (Spec.answered s (Spec.dataTransmissions s.cfgBus bytes)
      (match bytes.getLast? with
        | none => s.pins
        | some b => Spec.pinsAfter s.cfgBus true b s.pins)
      (if bytes = [] then .ok else Spec.txStatus s.cfgBus) 0x00#8)

/-- 43_ddram_print.md R94 (f): two PRINTs in a row emit the same events as one PRINT of the joined text. -/
def Obligations.TwoPrintsAreOneJoined : Prop :=
  ∀ (as bs : List Byte) (s t u : State), exec (.print as) s = .next t → exec (.print bs) t = .next u →
    ∃ v, exec (.print (as ++ bs)) s = .next v ∧ v.events = u.events ∧ v.pins = u.pins ∧
      ({ v with responses := u.responses } : State) = u

/-! ## FUNCTION_SET and ENTRY_MODE_SET -/

/-- 45_function_set_entry_mode.md R104, R105, R108: for all 32 legal combinations FUNCTION_SET caches the packed bits
and sends `0x20` plus them, with `N` the line count less one, and answers `Ok`; nothing else changes. -/
def Obligations.FunctionSetPacksAndSends : Prop :=
  encode .functionSet = [0xC000#16] ∧
  ∀ s : State, Spec.legalConfig s = true →
    Spec.present s.bind
      (Spec.transmission s.cfgBus false (BitVec.ofNat 8 (0x20 + Spec.fssNumber s))) = true →
    exec .functionSet s = .next { Spec.answered s
      (Spec.transmission s.cfgBus false (BitVec.ofNat 8 (0x20 + Spec.fssNumber s)))
      ⟨false, false, false, BitVec.ofNat 8 (0x20 + Spec.fssNumber s)⟩ .ok 0x00#8 with
      fss := BitVec.ofNat 5 (Spec.fssNumber s) }

/-- 45_function_set_entry_mode.md R103: any parameter outside its domain fails with `InvalidArgument`, without an
event and without writing `FSS`. -/
def Obligations.FunctionSetRejectsBadParameter : Prop :=
  ∀ s : State, Spec.legalConfig s = false → exec .functionSet s = .next (Spec.failed s .invalidArgument)

/-- 45_function_set_entry_mode.md R107: `EMS <- {id, s}` on every call, then `0x04 | EMS` is sent and its status
answered; nothing else changes. -/
def Obligations.EntryModeSetCachesAndSends : Prop :=
  ∀ (id sh : BitVec 1) (s : State),
    encode (.entryModeSet id sh) = [BitVec.ofNat 16 (0x3000 + 2 * id.toNat + sh.toNat)] ∧
    (Spec.present s.bind
        (Spec.transmission s.cfgBus false (BitVec.ofNat 8 (0x04 + 2 * id.toNat + sh.toNat))) = true →
      exec (.entryModeSet id sh) s = .next { Spec.answered s
        (Spec.transmission s.cfgBus false (BitVec.ofNat 8 (0x04 + 2 * id.toNat + sh.toNat)))
        (Spec.pinsAfter s.cfgBus false (BitVec.ofNat 8 (0x04 + 2 * id.toNat + sh.toNat)) s.pins)
        (Spec.txStatus s.cfgBus) 0x00#8 with ems := BitVec.ofNat 2 (2 * id.toNat + sh.toNat) })

/-! ## Register access -/

/-- 46_register_access.md R109: indices 0 to 3 take any value; 4 to 15 fail with `InvalidArgument` and nothing is
written; no event. -/
def Obligations.CfgwWritesConfiguration : Prop :=
  ∀ (idx : BitVec 4) (val : Byte) (s : State),
    encode (.cfgw idx val) = [0xD000#16 ||| (idx.setWidth 16 <<< 8) ||| val.setWidth 16] ∧
    exec (.cfgw idx val) s =
      .next (if idx = 0#4 then { Spec.answered s [] s.pins .ok 0x00#8 with cfgLines := val }
        else if idx = 1#4 then { Spec.answered s [] s.pins .ok 0x00#8 with cfgFont := val }
        else if idx = 2#4 then { Spec.answered s [] s.pins .ok 0x00#8 with cfgBus := val }
        else if idx = 3#4 then { Spec.answered s [] s.pins .ok 0x00#8 with cfgAlpha := val }
        else Spec.failed s .invalidArgument)

/-- 46_register_access.md R110: indices 0 to 7 answer the register's value, zero-extended; 8 to 15 fail with
`rdata = 0x00`; nothing is written, no event. -/
def Obligations.RegrdAnswersRegister : Prop :=
  ∀ (idx : BitVec 4) (s : State),
    encode (.regrd idx) = [0xE000#16 ||| (idx.setWidth 16 <<< 8)] ∧
    exec (.regrd idx) s =
      .next (if idx.toNat ≤ 7 then Spec.answered s [] s.pins .ok (Spec.indexValue s idx.toNat)
        else Spec.failed s .invalidArgument)

/-- 20_memory.md R51, 70_reset_and_hazards.md R143: after a CFGW of `CFG_BUS` the next instruction, whichever it is,
emits what it emits under the new width, so the very next byte is sent at that width; no other input of it changes. -/
def Obligations.BusWidthTakesEffectAtNextByte : Prop :=
  ∀ (v : Byte) (i : Instr) (s t u : State), exec (.cfgw 2#4 v) s = .next t → exec i t = .next u →
    u.events = s.events ++ Spec.operationEvents i { s with cfgBus := v }

/-! ## Bus bytes -/

/-- 30_encoding.md R60 to R66: a bus row is the transmission of its byte; no register changes and there is no
response (log 7). -/
def Obligations.BusRowsAreTransmitted : Prop :=
  ∀ (i : Instr) (s : State), i.isHost = false →
    encodeBus i = BitVec.ofBool (Spec.busRow i).1 ++ (Spec.busRow i).2 ∧
    (Spec.present s.bind (Spec.transmission s.cfgBus (Spec.busRow i).1 (Spec.busRow i).2) = true →
      exec i s = .next { s with
        events := s.events ++ Spec.transmission s.cfgBus (Spec.busRow i).1 (Spec.busRow i).2,
        pins := Spec.pinsAfter s.cfgBus (Spec.busRow i).1 (Spec.busRow i).2 s.pins })

/-! ## Rules over all instructions -/

/-- With every primitive present no instruction is refused: each answers a next state (10_state.md R27,
93_implementation_defined.md U2). It rests on the model's choice of log 1: R36 and U1 ask a model to refuse the read of
a register that nothing has written, and here every register holds a value. -/
def Obligations.CompleteInterfaceRefusesNothing : Prop :=
  ∀ (i : Instr) (s : State), s.bind = 0xFF#8 → ∃ t, exec i s = .next t

/-- In every state each instruction either answers a next state and has emitted exactly its events, all of whose
primitives are present, or, when one of them is missing, is refused, naming a primitive that is missing
(93_implementation_defined.md U2, log 4); INIT, CFGW and REGRD are never refused. That this is the only refusal rests on
the model's choice of log 1 (R36 and U1 refuse reads of unwritten registers). -/
def Obligations.EventsAreThoseOrRefused : Prop :=
  (∀ (i : Instr) (s : State),
    if Spec.present s.bind (Spec.operationEvents i s) = true then
      ∃ t, exec i s = .next t ∧ t.events = s.events ++ Spec.operationEvents i s
    else ∃ p, exec i s = .refused (.primitiveMissing p) ∧ s.bind.getLsbD (bindBit p) = false) ∧
  (∀ (s : State) (idx : BitVec 4) (val : Byte), ∀ i ∈ [Instr.init, .cfgw idx val, .regrd idx],
    Spec.present s.bind (Spec.operationEvents i s) = true)

/-- The frame of every request: registers other than those the operation writes, the inputs and the request port are
unchanged; events are only added; one response is given; `BUSY` falls (10_state.md R29, 30_encoding.md R53). -/
def Obligations.RequestFrame : Prop :=
  ∀ (i : Instr) (s t : State), i.isHost = true → exec i s = .next t →
    (∀ r, r ∉ writes i s → readReg r t = readReg r s) ∧
    t.bind = s.bind ∧ t.rst = s.rst ∧ t.requests = s.requests ∧ t.accepted = s.accepted ∧ t.txByte = s.txByte ∧
    t.rp = s.rp ∧ s.events <+: t.events ∧ t.busy = false ∧ ∃ r, t.responses = s.responses ++ [r]

/-- 46_register_access.md R111: the caches change only through the operations of files 40, 42 and 45, the
configuration only through CFGW (10_state.md section 2); the host cannot write a cache. -/
def Obligations.EachRegisterHasItsWriters : Prop :=
  ∀ (i : Instr) (s t : State), exec i s = .next t →
    (t.ems ≠ s.ems → i = .init ∨ ∃ id sh, i = .entryModeSet id sh) ∧
    (t.dcs ≠ s.dcs → i = .init ∨ Spec.isDisplayOp i = true) ∧
    (t.fss ≠ s.fss → i = .init ∨ i = .functionSet) ∧
    ((t.cfgLines ≠ s.cfgLines ∨ t.cfgFont ≠ s.cfgFont ∨ t.cfgBus ≠ s.cfgBus ∨ t.cfgAlpha ≠ s.cfgAlpha) →
      ∃ idx val, i = .cfgw idx val ∧ idx.toNat ≤ 3)

/-- 30_encoding.md R57: one response per request; `rdata` is the register's value for a REGRD that returns `Ok` and
`0x00` for every other response. -/
def Obligations.OneResponsePerRequest : Prop :=
  ∀ (i : Instr) (s t : State), i.isHost = true → exec i s = .next t →
    ∃ st v, t.responses = s.responses ++ [⟨st, v⟩] ∧
      v = (match i, st with
        | .regrd idx, .ok => Spec.indexValue s idx.toNat
        | _, _ => 0x00#8)

/-- The table of 60_exceptions.md R121, what a failed request leaves: its events; the configuration, `FSS`, and the
caches of other families unchanged; the new value kept in `DCS` by a display-control operation and in `EMS` by
ENTRY_MODE_SET. (The row of the illegal word is `IllegalWordIsRejected`.) -/
def Obligations.FailedRequestEffects : Prop :=
  ∀ (i : Instr) (s t : State) (st : Status) (v : Byte), i.isHost = true → exec i s = .next t →
    t.responses = s.responses ++ [⟨st, v⟩] → st ≠ .ok →
    t.events = s.events ++ Spec.failEvents s i st ∧
    t.cfgLines = s.cfgLines ∧ t.cfgFont = s.cfgFont ∧ t.cfgBus = s.cfgBus ∧ t.cfgAlpha = s.cfgAlpha ∧
    t.fss = s.fss ∧ (Spec.isDisplayOp i = false → t.dcs = s.dcs) ∧
    (∀ r ∈ Spec.displayOps s.dcs, i = r.1 → t.dcs = r.2.2.2.2) ∧
    ((∀ id sh, i ≠ .entryModeSet id sh) → t.ems = s.ems) ∧
    (∀ id sh, i = .entryModeSet id sh → t.ems = BitVec.ofNat 2 (2 * id.toNat + sh.toNat))

/-- 60_exceptions.md R118: a failed request makes the controller latch nothing.
That the controller is in step, ready, and reads at the width `CFG_BUS` names is the model's choice (logs 17 to 19). -/
def Obligations.FailureLatchesNothing : Prop :=
  ∀ (i : Instr) (s t : State) (st : Status) (v : Byte), i.isHost = true → exec i s = .next t →
    t.responses = s.responses ++ [⟨st, v⟩] → st ≠ .ok →
    strobes (Spec.newEvents s t) = 0 ∧ receivedBytes s t = []

/-- 60_exceptions.md R120: which status is reported when several failures apply: the operation's own check comes
before a transmission failure. -/
def Obligations.OwnCheckComesBeforeTransmission : Prop :=
  ∀ s : State, Spec.legalBus s.cfgBus = false →
    (∀ addr : Byte, 0x7F < addr.toNat → exec (.setDdramAddr addr) s = .next (Spec.failed s .outOfRange)) ∧
    exec .functionSet s = .next (Spec.failed s .invalidArgument) ∧
    (Spec.legalLines s.cfgLines = false → exec .init s = .next (Spec.failed s .invalidArgument)) ∧
    (s.bind = 0xFF#8 → Spec.legalLines s.cfgLines = true →
      exec .init s = .next (Spec.answered s [.delay 50000] s.pins .invalidArgument 0x00#8))

/-- 44_transmit_strobe.md R100: strobes are bytes sent, times one in 8-bit mode, times two in 4-bit mode; a request
that fails has none. -/
def Obligations.StrobeCounts : Prop :=
  ∀ (i : Instr) (s t : State) (st : Status) (v : Byte), i.isHost = true → exec i s = .next t →
    t.responses = s.responses ++ [⟨st, v⟩] →
    strobes (Spec.newEvents s t) =
      if st = .ok then Spec.bytesSent i * (if s.cfgBus = 0x01#8 then 1 else 2) else 0

/-- 70_reset_and_hazards.md R145: the minimum time of each operation, and of a request that fails validation. -/
def Obligations.MinimumTimes : Prop :=
  ∀ (i : Instr) (s t : State) (st : Status) (v : Byte), i.isHost = true → exec i s = .next t →
    t.responses = s.responses ++ [⟨st, v⟩] →
    (st = .ok → minTime (Spec.newEvents s t) = Spec.timeOf s.cfgBus i) ∧
    ((st = .invalidArgument ∨ st = .outOfRange) → minTime (Spec.newEvents s t) =
      if i = .init ∧ s.bind = 0xFF#8 ∧ Spec.legalLines s.cfgLines = true then 50000 else 0)

/-- 70_reset_and_hazards.md R141: every operation emits at most 4080 events. -/
def Obligations.EventsAreBounded : Prop :=
  ∀ (i : Instr) (s t : State), WellFormed i → exec i s = .next t →
    (Spec.newEvents s t).length ≤ 4080

/-- 30_encoding.md R69: the set of command bytes the controller can ever receive from a request is exactly the set
named there.
That the controller is in step, ready, and reads at the width `CFG_BUS` names is the model's choice (logs 17 to 19). -/
def Obligations.CommandBytesAreExactlyThose : Prop :=
  ∀ b : Byte, (∃ i s t, i.isHost = true ∧ exec i s = .next t ∧ (0#1 ++ b : BusByte) ∈ receivedBytes s t) ↔
    Spec.commandByte b = true

/-- 20_memory.md R41: no instruction drives `RW` to 1, so nothing is ever read from the bus. -/
def Obligations.BusIsNeverRead : Prop :=
  ∀ (i : Instr) (s t : State), exec i s = .next t → Event.rw true ∉ Spec.newEvents s t

/-- 44_transmit_strobe.md R99: every `E` event an instruction emits belongs to a whole pulse. -/
def Obligations.PulsesAreNeverSplit : Prop :=
  ∀ (i : Instr) (s t : State), exec i s = .next t → pulsesWhole (Spec.newEvents s t) = true

/-- 10_state.md R26, 42_display_control.md R90 (c): when its byte is sent, the cache holds the parameter bits of the
byte of its family just received.
That the controller is in step, ready, and reads at the width `CFG_BUS` names is the model's choice (logs 17 to 19). -/
def Obligations.CacheAgreesWithByteReceived : Prop :=
  ∀ (i : Instr) (s t : State), Spec.legalBus s.cfgBus = true → exec i s = .next t →
    (Spec.isDisplayOp i = true → receivedBytes s t = [0#1 ++ BitVec.ofNat 8 (0x08 + t.dcs.toNat)]) ∧
    ((∃ id sh, i = .entryModeSet id sh) → receivedBytes s t = [0#1 ++ BitVec.ofNat 8 (0x04 + t.ems.toNat)]) ∧
    ((i = .functionSet ∧ Spec.legalConfig s = true) →
      receivedBytes s t = [0#1 ++ BitVec.ofNat 8 (0x20 + t.fss.toNat)]) ∧
    ((i = .init ∧ s.bind = 0xFF#8 ∧ Spec.legalConfig s = true) →
      receivedBytes s t = [0#1 ++ BitVec.ofNat 8 (0x20 + t.fss.toNat), 0#1 ++ BitVec.ofNat 8 (0x08 + t.dcs.toNat),
        0#1 ++ 0x01#8, 0#1 ++ BitVec.ofNat 8 (0x04 + t.ems.toNat)])

/-! ## Invariants and whole runs -/

/-- The invariant holds at reset (it rests on the latch values of log 2 only through their being the start of the
view). -/
def Obligations.ResetMeetsInvariant : Prop := Inv State.reset

/-- Every step keeps the invariant: the port is idle or inside a PRINT and `BUSY` says which, no byte is half sent,
pulses are whole, the bus is never read, the latches are a view of the events. The model's choices: a step with `RST`
active leaves the latches as they stand, which 10_state.md R34 leaves open (log 8); a PRINT waits with its words
accepted (log 6); the view starts from the latches of log 2. -/
def Obligations.StepKeepsInvariant : Prop := ∀ s t : State, Inv s → step s = .next t → Inv t

/-- A word presented, and a change of `RST` between two steps, keep the invariant (30_encoding.md R53,
70_reset_and_hazards.md R131); that the change by itself resets nothing is the model's choice (log 20). `RST` in the
middle of an operation is `CutInvariantIsKept`. -/
def Obligations.HostMovesKeepInvariant : Prop :=
  ∀ (s : State) (w : Word) (l : Bool), Inv s → Inv (present w s) ∧ Inv (setRst l s)

/-- 70_reset_and_hazards.md R141, R146: a stream that does not end inside a payload is served to its end, one step
and one response for each request. It rests on the model's choice of log 1 (R36 refuses reads of unwritten registers). -/
def Obligations.CompleteStreamIsServed : Prop :=
  ∀ s : State, Idle s → s.busy = false → s.bind = 0xFF#8 → streamComplete 0 s.requests = true →
    ∃ k t, k ≤ s.requests.length ∧ core.run k s = .next t ∧ runOver t = true ∧
      t.rp = s.rp + s.requests.length ∧ t.responses.length = s.responses.length + k

/-- 10_state.md R36 and log 1: a request that reads only registers written since reset behaves the same whatever the
others hold, so the values the model names for reset cannot show in a safe run. -/
def Obligations.UnwrittenRegistersCannotShow : Prop :=
  ∀ (known : List Reg) (i : Instr) (s t s' : State), safeRequest known i = true → AgreeOn known s t →
    exec i s = .next s' → ∃ t', exec i t = .next t' ∧ AgreeOn (known ++ writes i s) s' t'

/-- 70_reset_and_hazards.md R131, 92_eei_decisions.md D23: after `RST` in the middle of an operation (log 9) the port is
idle (`BUSY = 0`, no open PRINT), no byte is half sent, the bus has not been read, and the pin latches are what the
events that were emitted drove them to, a cut pulse included. Every step and every word or level from outside (log 20)
keep `CutInv`, in which the port is idle or inside a PRINT (log 6). That reset leaves the latches as they stand is the
model's choice (log 8), and what they start from is log 2. -/
def Obligations.CutInvariantIsKept : Prop :=
  ∀ s : State, CutInv s →
    (∀ (k : Nat) (u : State), resetDuring k s = .next u → CutInv u ∧ u.busy = false ∧ u.accepted = []) ∧
    (∀ t, step s = .next t → CutInv t) ∧
    (∀ (w : Word) (l : Bool), CutInv (present w s) ∧ CutInv (setRst l s))
end

