-- ==== Sys2Proof/Laws/State.lean ====
section
/-! SUPPORT. One lemma for each field and each update of the state, so that no later proof unfolds an update. -/

namespace Sys2Proof.Machine

variable (s : State)

/-! ## `emit` -/

@[simp] theorem emit_cfgLines (e : Event) : (emit e s).cfgLines = s.cfgLines := rfl
@[simp] theorem emit_cfgFont (e : Event) : (emit e s).cfgFont = s.cfgFont := rfl
@[simp] theorem emit_cfgBus (e : Event) : (emit e s).cfgBus = s.cfgBus := rfl
@[simp] theorem emit_cfgAlpha (e : Event) : (emit e s).cfgAlpha = s.cfgAlpha := rfl
@[simp] theorem emit_ems (e : Event) : (emit e s).ems = s.ems := rfl
@[simp] theorem emit_dcs (e : Event) : (emit e s).dcs = s.dcs := rfl
@[simp] theorem emit_fss (e : Event) : (emit e s).fss = s.fss := rfl
@[simp] theorem emit_pins (e : Event) : (emit e s).pins = drive s.pins e := rfl
@[simp] theorem emit_busy (e : Event) : (emit e s).busy = s.busy := rfl
@[simp] theorem emit_bind (e : Event) : (emit e s).bind = s.bind := rfl
@[simp] theorem emit_rst (e : Event) : (emit e s).rst = s.rst := rfl
@[simp] theorem emit_requests (e : Event) : (emit e s).requests = s.requests := rfl
@[simp] theorem emit_accepted (e : Event) : (emit e s).accepted = s.accepted := rfl
@[simp] theorem emit_txByte (e : Event) : (emit e s).txByte = s.txByte := rfl
@[simp] theorem emit_rp (e : Event) : (emit e s).rp = s.rp := rfl
@[simp] theorem emit_events (e : Event) : (emit e s).events = s.events ++ [e] := rfl
@[simp] theorem emit_responses (e : Event) : (emit e s).responses = s.responses := rfl

/-! ## `respond` -/

@[simp] theorem respond_cfgLines (st : Status) (v : Byte) : (respond st v s).cfgLines = s.cfgLines := rfl
@[simp] theorem respond_cfgFont (st : Status) (v : Byte) : (respond st v s).cfgFont = s.cfgFont := rfl
@[simp] theorem respond_cfgBus (st : Status) (v : Byte) : (respond st v s).cfgBus = s.cfgBus := rfl
@[simp] theorem respond_cfgAlpha (st : Status) (v : Byte) : (respond st v s).cfgAlpha = s.cfgAlpha := rfl
@[simp] theorem respond_ems (st : Status) (v : Byte) : (respond st v s).ems = s.ems := rfl
@[simp] theorem respond_dcs (st : Status) (v : Byte) : (respond st v s).dcs = s.dcs := rfl
@[simp] theorem respond_fss (st : Status) (v : Byte) : (respond st v s).fss = s.fss := rfl
@[simp] theorem respond_pins (st : Status) (v : Byte) : (respond st v s).pins = s.pins := rfl
@[simp] theorem respond_busy (st : Status) (v : Byte) : (respond st v s).busy = false := rfl
@[simp] theorem respond_bind (st : Status) (v : Byte) : (respond st v s).bind = s.bind := rfl
@[simp] theorem respond_rst (st : Status) (v : Byte) : (respond st v s).rst = s.rst := rfl
@[simp] theorem respond_requests (st : Status) (v : Byte) : (respond st v s).requests = s.requests := rfl
@[simp] theorem respond_accepted (st : Status) (v : Byte) : (respond st v s).accepted = s.accepted := rfl
@[simp] theorem respond_txByte (st : Status) (v : Byte) : (respond st v s).txByte = s.txByte := rfl
@[simp] theorem respond_rp (st : Status) (v : Byte) : (respond st v s).rp = s.rp := rfl
@[simp] theorem respond_events (st : Status) (v : Byte) : (respond st v s).events = s.events := rfl
@[simp] theorem respond_responses (st : Status) (v : Byte) : (respond st v s).responses = s.responses ++ [⟨st, v⟩] := rfl

/-! ## `accept` -/

@[simp] theorem accept_cfgLines (ws : List Word) : (accept ws s).cfgLines = s.cfgLines := rfl
@[simp] theorem accept_cfgFont (ws : List Word) : (accept ws s).cfgFont = s.cfgFont := rfl
@[simp] theorem accept_cfgBus (ws : List Word) : (accept ws s).cfgBus = s.cfgBus := rfl
@[simp] theorem accept_cfgAlpha (ws : List Word) : (accept ws s).cfgAlpha = s.cfgAlpha := rfl
@[simp] theorem accept_ems (ws : List Word) : (accept ws s).ems = s.ems := rfl
@[simp] theorem accept_dcs (ws : List Word) : (accept ws s).dcs = s.dcs := rfl
@[simp] theorem accept_fss (ws : List Word) : (accept ws s).fss = s.fss := rfl
@[simp] theorem accept_pins (ws : List Word) : (accept ws s).pins = s.pins := rfl
@[simp] theorem accept_busy (ws : List Word) : (accept ws s).busy = true := rfl
@[simp] theorem accept_bind (ws : List Word) : (accept ws s).bind = s.bind := rfl
@[simp] theorem accept_rst (ws : List Word) : (accept ws s).rst = s.rst := rfl
@[simp] theorem accept_requests (ws : List Word) : (accept ws s).requests = ws := rfl
@[simp] theorem accept_accepted (ws : List Word) : (accept ws s).accepted = [] := rfl
@[simp] theorem accept_txByte (ws : List Word) : (accept ws s).txByte = s.txByte := rfl
@[simp] theorem accept_rp (ws : List Word) : (accept ws s).rp = s.rp + (s.requests.length - ws.length) := rfl
@[simp] theorem accept_events (ws : List Word) : (accept ws s).events = s.events := rfl
@[simp] theorem accept_responses (ws : List Word) : (accept ws s).responses = s.responses := rfl

/-! ## `await` -/

@[simp] theorem await_cfgLines : (await s).cfgLines = s.cfgLines := rfl
@[simp] theorem await_cfgFont : (await s).cfgFont = s.cfgFont := rfl
@[simp] theorem await_cfgBus : (await s).cfgBus = s.cfgBus := rfl
@[simp] theorem await_cfgAlpha : (await s).cfgAlpha = s.cfgAlpha := rfl
@[simp] theorem await_ems : (await s).ems = s.ems := rfl
@[simp] theorem await_dcs : (await s).dcs = s.dcs := rfl
@[simp] theorem await_fss : (await s).fss = s.fss := rfl
@[simp] theorem await_pins : (await s).pins = s.pins := rfl
@[simp] theorem await_busy : (await s).busy = true := rfl
@[simp] theorem await_bind : (await s).bind = s.bind := rfl
@[simp] theorem await_rst : (await s).rst = s.rst := rfl
@[simp] theorem await_requests : (await s).requests = [] := rfl
@[simp] theorem await_accepted : (await s).accepted = portWords s := rfl
@[simp] theorem await_txByte : (await s).txByte = s.txByte := rfl
@[simp] theorem await_rp : (await s).rp = s.rp + s.requests.length := rfl
@[simp] theorem await_events : (await s).events = s.events := rfl
@[simp] theorem await_responses : (await s).responses = s.responses := rfl

/-! ## `setRst` -/

@[simp] theorem setRst_cfgLines (l : Bool) : (setRst l s).cfgLines = s.cfgLines := rfl
@[simp] theorem setRst_cfgFont (l : Bool) : (setRst l s).cfgFont = s.cfgFont := rfl
@[simp] theorem setRst_cfgBus (l : Bool) : (setRst l s).cfgBus = s.cfgBus := rfl
@[simp] theorem setRst_cfgAlpha (l : Bool) : (setRst l s).cfgAlpha = s.cfgAlpha := rfl
@[simp] theorem setRst_ems (l : Bool) : (setRst l s).ems = s.ems := rfl
@[simp] theorem setRst_dcs (l : Bool) : (setRst l s).dcs = s.dcs := rfl
@[simp] theorem setRst_fss (l : Bool) : (setRst l s).fss = s.fss := rfl
@[simp] theorem setRst_pins (l : Bool) : (setRst l s).pins = s.pins := rfl
@[simp] theorem setRst_busy (l : Bool) : (setRst l s).busy = s.busy := rfl
@[simp] theorem setRst_bind (l : Bool) : (setRst l s).bind = s.bind := rfl
@[simp] theorem setRst_rst (l : Bool) : (setRst l s).rst = l := rfl
@[simp] theorem setRst_requests (l : Bool) : (setRst l s).requests = s.requests := rfl
@[simp] theorem setRst_accepted (l : Bool) : (setRst l s).accepted = s.accepted := rfl
@[simp] theorem setRst_txByte (l : Bool) : (setRst l s).txByte = s.txByte := rfl
@[simp] theorem setRst_rp (l : Bool) : (setRst l s).rp = s.rp := rfl
@[simp] theorem setRst_events (l : Bool) : (setRst l s).events = s.events := rfl
@[simp] theorem setRst_responses (l : Bool) : (setRst l s).responses = s.responses := rfl

end Sys2Proof.Machine
end

