-- ==== Sys2Proof/Laws/Ops.lean ====
section
/-! SUPPORT. What each shared operation can do, said once: every operation only appends events and drives the
latches with them (`emitAll`), and ends in `commit`. -/

namespace Sys2Proof.Machine

/-! ## Appending events -/

/-- The state after a list of events. -/
def emitAll (es : List Event) (s : State) : State :=
  { s with events := s.events ++ es, pins := drivenPins s.pins es }

@[simp] theorem emitAll_nil (s : State) : emitAll [] s = s := by
  simp [emitAll, drivenPins]

theorem emit_eq_emitAll (e : Event) (s : State) : emit e s = emitAll [e] s := rfl

@[simp] theorem emitAll_emitAll (as bs : List Event) (s : State) :
    emitAll bs (emitAll as s) = emitAll (as ++ bs) s := by
  simp [emitAll, drivenPins, List.append_assoc]

@[simp] theorem emitAll_events (es : List Event) (s : State) : (emitAll es s).events = s.events ++ es := rfl
@[simp] theorem emitAll_pins (es : List Event) (s : State) : (emitAll es s).pins = drivenPins s.pins es := rfl
@[simp] theorem emitAll_cfgLines (es : List Event) (s : State) : (emitAll es s).cfgLines = s.cfgLines := rfl
@[simp] theorem emitAll_cfgFont (es : List Event) (s : State) : (emitAll es s).cfgFont = s.cfgFont := rfl
@[simp] theorem emitAll_cfgBus (es : List Event) (s : State) : (emitAll es s).cfgBus = s.cfgBus := rfl
@[simp] theorem emitAll_cfgAlpha (es : List Event) (s : State) : (emitAll es s).cfgAlpha = s.cfgAlpha := rfl
@[simp] theorem emitAll_ems (es : List Event) (s : State) : (emitAll es s).ems = s.ems := rfl
@[simp] theorem emitAll_dcs (es : List Event) (s : State) : (emitAll es s).dcs = s.dcs := rfl
@[simp] theorem emitAll_fss (es : List Event) (s : State) : (emitAll es s).fss = s.fss := rfl
@[simp] theorem emitAll_bind (es : List Event) (s : State) : (emitAll es s).bind = s.bind := rfl

/-! ## PULSE and TX -/

/-- The six events of a pulse (44_transmit_strobe.md R98). -/
def pulseEvents : List Event :=
  [.e false, .delay Params.tELow, .e true, .delay Params.tEHigh, .e false, .delay Params.tEHold]

theorem pulse_eq (s : State) : pulse s = emitAll pulseEvents s := by
  simp [pulse, emit_eq_emitAll, pulseEvents]

/-- One transfer: a value and its pulse (44_transmit_strobe.md R95). -/
def transferEvents (v : Byte) : List Event := .data v :: pulseEvents

/-- The events of a transmission (44_transmit_strobe.md R102). -/
def txEvents (bus : Byte) (mode : TxMode) (b : Byte) : List Event :=
  .rs (rsLevel mode) :: .rw false ::
    (if bus = Params.bus8 then transferEvents b
     else if bus = Params.bus4 then transferEvents (b >>> 4) ++ transferEvents b
     else [])

/-- The status of a transmission (44_transmit_strobe.md R97). -/
def txStatus (bus : Byte) : Status := if bus = Params.bus8 ∨ bus = Params.bus4 then .ok else .fail

/-- All that `TX` does: its events, and its status; no register changes. -/
theorem tx_eq (mode : TxMode) (b : Byte) (s : State) :
    tx mode b s = (txStatus s.cfgBus, emitAll (txEvents s.cfgBus mode b) s) := by
  simp only [tx, emit_eq_emitAll, emitAll_cfgBus, pulse_eq, emitAll_emitAll, txStatus, txEvents]
  split
  · simp [transferEvents, *]
  · split <;> simp [transferEvents, *]

theorem txStatus_cases (bus : Byte) : txStatus bus = .ok ∨ txStatus bus = .fail := by
  unfold txStatus; split <;> simp

/-- All that the loop of PRINT does: the events of every byte, and `Fail` when one transmission failed. -/
theorem printLoop_eq (bs : List Byte) (st : Status) (s : State) :
    printLoop st bs s =
      (bs.foldl (fun a _ => a.or (txStatus s.cfgBus)) st,
        emitAll (bs.flatMap (txEvents s.cfgBus .dat)) s) := by
  induction bs generalizing st s with
  | nil => simp [printLoop]
  | cons b bs ih => simp [printLoop, tx_eq, ih]

/-- The status of a PRINT of at least one byte is that of its transmissions (43_ddram_print.md R93). -/
theorem printStatus_cons (bus : Byte) (b : Byte) (bs : List Byte) :
    (b :: bs).foldl (fun a _ => Status.or a (txStatus bus)) Status.ok = txStatus bus := by
  have h : ∀ l : List Byte, l.foldl (fun a _ => Status.or a (txStatus bus)) (txStatus bus) = txStatus bus := by
    intro l
    induction l with
    | nil => rfl
    | cons _ _ ih =>
      have : Status.or (txStatus bus) (txStatus bus) = txStatus bus := by
        rcases txStatus_cases bus with h | h <;> rw [h] <;> rfl
      simpa [this] using ih
  have : Status.or .ok (txStatus bus) = txStatus bus := by
    rcases txStatus_cases bus with h | h <;> rw [h] <;> rfl
  simpa [this] using h bs

/-! ## Missing primitives and the end of an operation -/

/-- Every event of the list calls a primitive that is present. -/
def allPresent (bind : Byte) (es : List Event) : Bool := es.all fun e => bind.getLsbD (bindBit (primitiveOf e))

theorem missingPrimitive_eq_none (bind : Byte) (es : List Event) :
    missingPrimitive bind es = none ↔ allPresent bind es = true := by
  induction es with
  | nil => simp [missingPrimitive, allPresent]
  | cons e es ih =>
    simp only [missingPrimitive, allPresent, List.all_cons, Bool.and_eq_true]
    split
    · next h => simpa [h, allPresent] using ih
    · next h => simp [h]

/-- A complete interface lacks no primitive (10_state.md R27). -/
theorem allPresent_of_complete (es : List Event) : allPresent 0xFF#8 es = true := by
  simp only [allPresent, List.all_eq_true]
  intro e _
  cases primitiveOf e <;> decide

/-- All that `commit` can do. -/
theorem commit_cases (s t : State) (es : List Event) (h : t.events = s.events ++ es) :
    (allPresent s.bind es = true ∧ commit s t = .next t) ∨
      (allPresent s.bind es = false ∧ ∃ p, commit s t = .refused (.primitiveMissing p)) := by
  simp only [commit, h, List.drop_left]
  rcases hm : missingPrimitive s.bind es with _ | p
  · exact .inl ⟨(missingPrimitive_eq_none _ _).1 hm, rfl⟩
  · refine .inr ⟨?_, p, rfl⟩
    by_contra hc
    simp [(missingPrimitive_eq_none _ _).2 (by simpa using hc)] at hm

/-- When `commit` answers a next state. -/
theorem commit_eq_next {s t u : State} {es : List Event} (h : t.events = s.events ++ es) :
    commit s t = .next u ↔ allPresent s.bind es = true ∧ u = t := by
  rcases commit_cases s t es h with ⟨h1, h2⟩ | ⟨h1, p, h2⟩
  · simp [h1, h2, eq_comm]
  · simp [h1, h2]

end Sys2Proof.Machine
end

