-- ==== Sys2Proof/Laws/Exec.lean ====
section
/-! SUPPORT. What each operation does, as a status, a list of events and the registers it writes; and what any
instruction can do when it answers a next state. -/

namespace Sys2Proof.Machine

/-! ## One summary for each operation -/

theorem opClear_eq (s : State) :
    opClear s =
      (txStatus s.cfgBus, emitAll (txEvents s.cfgBus .cmd clearDisplayByte ++ [.delay Params.tClear]) s) := by
  simp [opClear, tx_eq, emit_eq_emitAll]

theorem opHome_eq (s : State) :
    opHome s =
      (txStatus s.cfgBus, emitAll (txEvents s.cfgBus .cmd returnHomeByte ++ [.delay Params.tHome]) s) := by
  simp [opHome, tx_eq, emit_eq_emitAll]

theorem dctl_eq (k : Nat) (on : Bool) (s : State) :
    dctl k on s =
      (txStatus s.cfgBus,
        emitAll (txEvents s.cfgBus .cmd (displayControlByte (dctlBits k on s.dcs)))
          { s with dcs := dctlBits k on s.dcs }) := by
  simp [dctl, tx_eq]

theorem opEntryModeSet_eq (id sh : BitVec 1) (s : State) :
    opEntryModeSet id sh s =
      (txStatus s.cfgBus,
        emitAll (txEvents s.cfgBus .cmd (entryModeByte (packEms id sh))) { s with ems := packEms id sh }) := by
  simp [opEntryModeSet, tx_eq]

theorem opSetDdramAddr_eq (addr : Byte) (s : State) :
    opSetDdramAddr addr s =
      if Params.ddramMax < addr then (.outOfRange, s)
      else (txStatus s.cfgBus, emitAll (txEvents s.cfgBus .cmd (ddramByte addr)) s) := by
  simp [opSetDdramAddr, tx_eq, raise]

/-- The value FUNCTION_SET packs (45_function_set_entry_mode.md R104). -/
def fssOf (s : State) : BitVec 5 := packFss s.cfgBus s.cfgLines s.cfgFont s.cfgAlpha

/-- A legal configuration has a legal bus width, so its transmissions succeed (40_init.md R77). -/
theorem txStatus_of_configOk {s : State} (h : configOk s = true) : txStatus s.cfgBus = .ok := by
  simp only [configOk, Params.busWidths, Bool.and_eq_true, List.contains_iff_mem, List.mem_cons,
    List.not_mem_nil, or_false] at h
  rcases h.1.1.1 with h | h <;> simp [txStatus, h]

theorem opFunctionSet_eq (s : State) :
    opFunctionSet s =
      if configOk s then
        (.ok, emitAll (txEvents s.cfgBus .cmd (functionSetByte (fssOf s))) { s with fss := fssOf s })
      else (.invalidArgument, s) := by
  by_cases h : configOk s = true
  · simp [opFunctionSet, tx_eq, h, fssOf, txStatus_of_configOk h]
  · simp [opFunctionSet, h, raise]

/-- The events of a successful INIT (40_init.md R79). -/
def initEvents (bus : Byte) (fss : BitVec 5) : List Event :=
  [.delay Params.tPower] ++ txEvents bus .cmd (functionSetByte fss) ++ [.delay Params.tFset] ++
    txEvents bus .cmd (displayControlByte dcsAfterInit) ++ [.delay Params.tDctl] ++
    txEvents bus .cmd clearDisplayByte ++ [.delay Params.tClear] ++
    txEvents bus .cmd (entryModeByte (packEms 1#1 0#1))

theorem andThen_ok (s : State) (k : State → Status × State) : andThen (.ok, s) k = k s := rfl

theorem andThen_invalid (s : State) (k : State → Status × State) :
    andThen (.invalidArgument, s) k = (.invalidArgument, s) := rfl

theorem opInit_eq (s : State) :
    opInit s =
      if initReady s then
        if configOk s then
          (.ok, emitAll (initEvents s.cfgBus (fssOf s))
            { s with fss := fssOf s, dcs := dcsAfterInit, ems := packEms 1#1 0#1 })
        else (.invalidArgument, emitAll [.delay Params.tPower] s)
      else (.invalidArgument, s) := by
  by_cases hr : initReady s = true
  · by_cases hc : configOk s = true
    · have hc' : configOk (emitAll [.delay Params.tPower] s) = true := hc
      have ht := txStatus_of_configOk hc
      simp only [opInit, hr, hc, hc', if_true, emit_eq_emitAll, opFunctionSet_eq, andThen_ok, tx_eq, opClear_eq,
        opEntryModeSet_eq, emitAll_cfgBus, ht]
      simp [emitAll, drivenPins, initEvents, fssOf, List.append_assoc]
    · have hc' : ¬configOk (emitAll [.delay Params.tPower] s) = true := hc
      simp only [opInit, hr, hc, hc', if_true, emit_eq_emitAll, opFunctionSet_eq]
      rfl
  · simp [opInit, hr, raise]

/-! ## Event lists built of whole transmissions -/

/-- Whole pulses at the front do not disturb what follows. -/
theorem pulsesWhole_append {as : List Event} (bs : List Event) (h : pulsesWhole as = true) :
    pulsesWhole (as ++ bs) = pulsesWhole bs := by
  induction as using pulsesWhole.induct with
  | case1 a x b y c z es ih =>
    simp only [pulsesWhole, Bool.and_eq_true] at h
    simpa only [List.cons_append, pulsesWhole, h.1, Bool.true_and] using ih h.2
  | case2 l es hn => simp [pulsesWhole] at h
  | case3 d es ih => simpa [pulsesWhole] using ih (by simpa [pulsesWhole] using h)
  | case4 v es ih => simpa [pulsesWhole] using ih (by simpa [pulsesWhole] using h)
  | case5 l es ih => simpa [pulsesWhole] using ih (by simpa [pulsesWhole] using h)
  | case6 l es ih => simpa [pulsesWhole] using ih (by simpa [pulsesWhole] using h)
  | case7 => rfl

/-- An event list an operation may emit: whole pulses, and no read of the bus. -/
def busList (es : List Event) : Prop := pulsesWhole es = true ∧ Event.rw true ∉ es

theorem busList_nil : busList [] := ⟨rfl, by simp⟩

theorem busList_delay (d : Nat) : busList [.delay d] := ⟨rfl, by simp⟩

theorem busList_append {as bs : List Event} (ha : busList as) (hb : busList bs) : busList (as ++ bs) :=
  ⟨by rw [pulsesWhole_append _ ha.1]; exact hb.1, by simp [ha.2, hb.2]⟩

theorem busList_txEvents (bus : Byte) (m : TxMode) (b : Byte) : busList (txEvents bus m b) := by
  unfold txEvents
  split
  · exact ⟨rfl, by cases m <;> simp [rsLevel, transferEvents, pulseEvents]⟩
  · split
    · exact ⟨rfl, by cases m <;> simp [rsLevel, transferEvents, pulseEvents]⟩
    · exact ⟨rfl, by cases m <;> simp [rsLevel]⟩

theorem busList_flatMap (bus : Byte) (m : TxMode) (bs : List Byte) : busList (bs.flatMap (txEvents bus m)) := by
  induction bs with
  | nil => exact busList_nil
  | cons b bs ih => exact busList_append (busList_txEvents bus m b) ih

theorem busList_initEvents (bus : Byte) (fss : BitVec 5) : busList (initEvents bus fss) := by
  unfold initEvents
  repeat' apply busList_append
  all_goals first | exact busList_delay _ | exact busList_txEvents _ _ _

/-! ## What an instruction can do -/

/-- `t` is `s` but for its seven registers. -/
def SameButRegs (s t : State) : Prop :=
  t = { s with
    cfgLines := t.cfgLines, cfgFont := t.cfgFont, cfgBus := t.cfgBus, cfgAlpha := t.cfgAlpha,
    ems := t.ems, dcs := t.dcs, fss := t.fss }

theorem SameButRegs.refl (s : State) : SameButRegs s s := rfl

/-- One end of a request, from what the operation is known to be. -/
theorem finish_next {s s' t : State} {v : Byte} {st : Status} {es : List Event}
    (hs : SameButRegs s s') (h : finish s v (st, emitAll es s') = .next t) :
    allPresent s.bind es = true ∧ t = respond st v (emitAll es s') := by
  have he : (respond st v (emitAll es s')).events = s.events ++ es := by
    rw [hs]; rfl
  exact (commit_eq_next he).1 h

/-- The shape of what an instruction does: it appends a list of whole transmissions and delays, changes at most
the seven registers, and, if it is a request, responds once. -/
def ExecShape (i : Instr) (s t : State) : Prop :=
  ∃ (es : List Event) (s' : State), busList es ∧ allPresent s.bind es = true ∧ SameButRegs s s' ∧
    ((i.isHost = true ∧ ∃ st v, t = respond st v (emitAll es s')) ∨
      (i.isHost = false ∧ t = emitAll es s'))

/-- Whatever an instruction does has that shape. -/
theorem exec_cases {i : Instr} {s t : State} (h : exec i s = .next t) : ExecShape i s t := by
  have host : ∀ {v : Byte} {st : Status} {es : List Event} {s' : State}, i.isHost = true → busList es →
      SameButRegs s s' → finish s v (st, emitAll es s') = .next t → ExecShape i s t := by
    intro v st es s' hi hb hs hf
    obtain ⟨hp, ht⟩ := finish_next hs hf
    exact ⟨es, s', hb, hp, hs, .inl ⟨hi, st, v, ht⟩⟩
  have plain : ∀ {v : Byte} {st : Status} {s' : State}, i.isHost = true →
      SameButRegs s s' → finish s v (st, s') = .next t → ExecShape i s t := by
    intro v st s' hi hs hf
    exact host (es := []) hi busList_nil hs (by simpa using hf)
  have bus : ∀ b : BusByte, i.isHost = false → transmit b s = .next t → ExecShape i s t := by
    intro b hi hf
    simp only [transmit, tx_eq] at hf
    obtain ⟨hp, ht⟩ := (commit_eq_next (emitAll_events _ s)).1 hf
    exact ⟨_, s, busList_txEvents _ _ _, hp, SameButRegs.refl s, .inr ⟨hi, ht⟩⟩
  cases i with
  | init =>
    simp only [exec, execInit, perform, opInit_eq] at h
    split at h
    · split at h
      · exact host rfl (busList_initEvents _ _) (by rfl) h
      · exact host rfl (busList_delay _) (.refl s) h
    · exact plain rfl (.refl s) h
  | clear =>
    simp only [exec, execClear, perform, opClear_eq] at h
    exact host rfl (busList_append (busList_txEvents _ _ _) (busList_delay _)) (.refl s) h
  | home =>
    simp only [exec, execHome, perform, opHome_eq] at h
    exact host rfl (busList_append (busList_txEvents _ _ _) (busList_delay _)) (.refl s) h
  | entryModeSet id sh =>
    simp only [exec, execEntryModeSet, perform, opEntryModeSet_eq] at h
    exact host rfl (busList_txEvents _ _ _) (by rfl) h
  | displayOn =>
    simp only [exec, execDisplayOn, perform, dctl_eq] at h
    exact host rfl (busList_txEvents _ _ _) (by rfl) h
  | displayOff =>
    simp only [exec, execDisplayOff, perform, dctl_eq] at h
    exact host rfl (busList_txEvents _ _ _) (by rfl) h
  | cursorOn =>
    simp only [exec, execCursorOn, perform, dctl_eq] at h
    exact host rfl (busList_txEvents _ _ _) (by rfl) h
  | cursorOff =>
    simp only [exec, execCursorOff, perform, dctl_eq] at h
    exact host rfl (busList_txEvents _ _ _) (by rfl) h
  | blinkOn =>
    simp only [exec, execBlinkOn, perform, dctl_eq] at h
    exact host rfl (busList_txEvents _ _ _) (by rfl) h
  | blinkOff =>
    simp only [exec, execBlinkOff, perform, dctl_eq] at h
    exact host rfl (busList_txEvents _ _ _) (by rfl) h
  | setDdramAddr addr =>
    simp only [exec, execSetDdramAddr, perform, opSetDdramAddr_eq] at h
    split at h
    · exact plain rfl (.refl s) h
    · exact host rfl (busList_txEvents _ _ _) (.refl s) h
  | print bytes =>
    simp only [exec, execPrint, perform, printLoop_eq] at h
    exact host rfl (busList_flatMap _ _ _) (.refl s) h
  | functionSet =>
    simp only [exec, execFunctionSet, perform, opFunctionSet_eq] at h
    split at h
    · exact host rfl (busList_txEvents _ _ _) (by rfl) h
    · exact plain rfl (.refl s) h
  | cfgw idx val =>
    simp only [exec, execCfgw, perform, opCfgw] at h
    split at h
    · next u hu =>
      refine plain rfl ?_ h
      rcases hr : regAt idx with _ | r <;> simp only [hr, Option.bind_none, Option.bind_some] at hu
      · simp at hu
      · cases r <;> simp [writeReg] at hu <;> subst hu <;> rfl
    · exact plain rfl (.refl s) h
  | regrd idx =>
    simp only [exec, execRegrd] at h
    split at h
    · exact plain rfl (.refl s) h
    · exact plain rfl (.refl s) h
  | busClearDisplay => exact bus _ rfl h
  | busReturnHome => exact bus _ rfl h
  | busEntryModeSet j sh => exact bus _ rfl h
  | busDisplayControl d c b => exact bus _ rfl h
  | busFunctionSet l n f a => exact bus _ rfl h
  | busSetDdramAddress a => exact bus _ rfl h
  | busDataWrite d => exact bus _ rfl h

/-- The block has no fault (60_exceptions.md R113). -/
theorem exec_ne_fault (i : Instr) (s : State) (f : Fault) : exec i s ≠ .fault f := nomatch f

end Sys2Proof.Machine
end

