-- ==== Sys2Proof/Laws/PerInstr.lean ====
section
/-! SUPPORT. One lemma per instruction: the encoding lies in the row of the opcode table the instruction belongs to
and has the length the spec gives it. -/

namespace Sys2Proof.Laws.OpcodeRow

/-- The match and mask columns of the row (30_encoding.md R55 for format H, R60 to R66 for format B). -/
def row : Instr → Word × Word
  | .init => (0x0000#16, 0xFFFF#16)
  | .clear => (0x1000#16, 0xFFFF#16)
  | .home => (0x2000#16, 0xFFFF#16)
  | .entryModeSet _ _ => (0x3000#16, 0xFFFC#16)
  | .displayOn => (0x4000#16, 0xFFFF#16)
  | .displayOff => (0x5000#16, 0xFFFF#16)
  | .cursorOn => (0x6000#16, 0xFFFF#16)
  | .cursorOff => (0x7000#16, 0xFFFF#16)
  | .blinkOn => (0x8000#16, 0xFFFF#16)
  | .blinkOff => (0x9000#16, 0xFFFF#16)
  | .setDdramAddr _ => (0xA000#16, 0xFF00#16)
  | .print _ => (0xB000#16, 0xFF00#16)
  | .functionSet => (0xC000#16, 0xFFFF#16)
  | .cfgw _ _ => (0xD000#16, 0xF000#16)
  | .regrd _ => (0xE000#16, 0xF0FF#16)
  | .busClearDisplay => (0x0001#16, 0x01FF#16)
  | .busReturnHome => (0x0002#16, 0x01FF#16)
  | .busEntryModeSet _ _ => (0x0004#16, 0x01FC#16)
  | .busDisplayControl _ _ _ => (0x0008#16, 0x01F8#16)
  | .busFunctionSet _ _ _ _ => (0x0020#16, 0x01E0#16)
  | .busSetDdramAddress _ => (0x0080#16, 0x0180#16)
  | .busDataWrite _ => (0x0100#16, 0x0100#16)

/-- How many words follow the first: the bytes of a PRINT, none for every other instruction (30_encoding.md R70). -/
def payload : Instr → Nat
  | .print bytes => bytes.length
  | _ => 0

/-- The first word of the encoding matches the row, and the encoding has the length of R70. -/
def Statement (i : Instr) : Prop :=
  ∃ w ws, encode i = w :: ws ∧ w &&& (row i).2 = (row i).1 ∧ ws.length = payload i

theorem init : Statement .init := ⟨_, _, rfl, by decide, rfl⟩
theorem clear : Statement .clear := ⟨_, _, rfl, by decide, rfl⟩
theorem home : Statement .home := ⟨_, _, rfl, by decide, rfl⟩
theorem entryModeSet (id s : BitVec 1) : Statement (.entryModeSet id s) :=
  ⟨_, _, rfl, by revert id s; decide, rfl⟩
theorem displayOn : Statement .displayOn := ⟨_, _, rfl, by decide, rfl⟩
theorem displayOff : Statement .displayOff := ⟨_, _, rfl, by decide, rfl⟩
theorem cursorOn : Statement .cursorOn := ⟨_, _, rfl, by decide, rfl⟩
theorem cursorOff : Statement .cursorOff := ⟨_, _, rfl, by decide, rfl⟩
theorem blinkOn : Statement .blinkOn := ⟨_, _, rfl, by decide, rfl⟩
theorem blinkOff : Statement .blinkOff := ⟨_, _, rfl, by decide, rfl⟩
theorem setDdramAddr (addr : Byte) : Statement (.setDdramAddr addr) :=
  ⟨_, _, rfl, by revert addr; decide, rfl⟩
theorem print (bytes : List Byte) : Statement (.print bytes) := by
  have key : ∀ n : Byte, hword 0xB#4 0#4 n &&& 0xFF00#16 = 0xB000#16 := by decide
  exact ⟨_, _, rfl, key _, List.length_map ..⟩
theorem functionSet : Statement .functionSet := ⟨_, _, rfl, by decide, rfl⟩
theorem cfgw (idx : BitVec 4) (val : Byte) : Statement (.cfgw idx val) := by
  refine ⟨_, _, rfl, ?_, rfl⟩
  ext k hk
  simp only [row, hword, BitVec.getElem_and, BitVec.getElem_append]
  interval_cases k <;> simp
theorem regrd (idx : BitVec 4) : Statement (.regrd idx) := ⟨_, _, rfl, by revert idx; decide, rfl⟩
theorem busClearDisplay : Statement .busClearDisplay := ⟨_, _, rfl, by decide, rfl⟩
theorem busReturnHome : Statement .busReturnHome := ⟨_, _, rfl, by decide, rfl⟩
theorem busEntryModeSet (i s : BitVec 1) : Statement (.busEntryModeSet i s) :=
  ⟨_, _, rfl, by revert i s; decide, rfl⟩
theorem busDisplayControl (d c b : BitVec 1) : Statement (.busDisplayControl d c b) :=
  ⟨_, _, rfl, by revert d c b; decide, rfl⟩
theorem busFunctionSet (l n f : BitVec 1) (a : BitVec 2) : Statement (.busFunctionSet l n f a) :=
  ⟨_, _, rfl, by revert l n f a; decide, rfl⟩
theorem busSetDdramAddress (a : BitVec 7) : Statement (.busSetDdramAddress a) :=
  ⟨_, _, rfl, by revert a; decide, rfl⟩
theorem busDataWrite (d : Byte) : Statement (.busDataWrite d) := ⟨_, _, rfl, by revert d; decide, rfl⟩

end Sys2Proof.Laws.OpcodeRow
end

