-- ==== Sys2Proof/Laws/Step.lean ====
section
/-! SUPPORT. What a step can do. -/

namespace Sys2Proof.Machine

/-- Every way a step answers a next state. -/
theorem step_cases {s t : State} (h : step s = .next t) :
    (s.rst = true ∧ t = holdReset s) ∨
    (s.rst = false ∧ ∃ b, s.txByte = some b ∧
      ((∃ i, decodeBus b = .ok i ∧ exec i { s with txByte := none } = .next t) ∨
        ((∀ i, decodeBus b ≠ .ok i) ∧ transmit b { s with txByte := none } = .next t))) ∨
    (s.rst = false ∧ s.txByte = none ∧
      ((∃ i rest, decode (portWords s) = .ok (i, rest) ∧ exec i (accept rest s) = .next t) ∨
        (decode (portWords s) = .error .noWord ∧ t = s) ∨
        (∃ n, decode (portWords s) = .error (.payloadMissing n) ∧ t = await s) ∨
        t = rejectWord s)) := by
  unfold step at h
  by_cases hr : s.rst = true
  · exact .inl ⟨hr, by simpa [hr, eq_comm] using h⟩
  have hr : s.rst = false := by simpa using hr
  simp only [hr, Bool.false_eq_true, if_false] at h
  split at h
  · next b hb =>
    refine .inr (.inl ⟨hr, b, hb, ?_⟩)
    unfold stepBus at h
    split at h
    · next i hi => exact .inl ⟨i, hi, h⟩
    · next e he => exact .inr ⟨by simp [he], h⟩
  · next hb =>
    refine .inr (.inr ⟨hr, hb, ?_⟩)
    unfold stepRequest at h
    split at h
    · next i rest hi => exact .inl ⟨i, rest, hi, h⟩
    · next he => exact .inr (.inl ⟨he, by simpa [eq_comm] using h⟩)
    · next n he => exact .inr (.inr (.inl ⟨n, he, by simpa [eq_comm] using h⟩))
    all_goals exact .inr (.inr (.inr (by simpa [eq_comm] using h)))

/-- Everything an abandoned step does, when the step would have answered a next state. -/
theorem resetDuring_next {k : Nat} {s t : State} (h : step s = .next t) :
    resetDuring k s = .next { State.reset with
      pins := drivenPins s.pins ((t.events.drop s.events.length).take k), bind := s.bind, rst := true,
      requests := t.requests, events := s.events ++ (t.events.drop s.events.length).take k,
      responses := s.responses } := by
  simp only [resetDuring, h, holdReset]

/-- Holding reset twice is holding it once. -/
theorem holdReset_idem (s : State) : holdReset (holdReset s) = holdReset s := rfl

end Sys2Proof.Machine
end

