-- ==== Sys2Proof/Tests/Slice0.lean ====
section
/-! SUPPORT. Tests. Expected results are written out from 30_encoding.md and from the vectors of
95_test_vectors.md; each test names its vector. Then a witness for the hypotheses of each statement. -/

namespace Sys2Proof.Tests

open Sys2Proof.Machine Sys2Proof.Safety

/-! ## Helpers -/

/-- After reset with 2 lines, 5×8 dots, table 0 and a bus width. -/
def start (bus : Byte) : State := { State.reset with cfgLines := 0x02#8, cfgBus := bus }

/-- The next state of an outcome. -/
def nextOf (o : Host.Outcome State Fault Refusal) : Option State :=
  match o with
  | .next t => some t
  | .fault _ => none
  | .refused _ => none

/-- Events and responses of one step on some request words. -/
def served (ws : List Word) (s : State) : Option (List Event × List Response) :=
  (nextOf (step { s with requests := ws })).map fun t => (t.events, t.responses)

/-- A field of the state after one step on some request words. -/
def after {α : Type} (f : State → α) (ws : List Word) (s : State) : Option α :=
  (nextOf (step { s with requests := ws })).map f

/-- The strobe pulse as 95_test_vectors.md writes it out. -/
def p : List Event := [.e false, .delay 1, .e true, .delay 1, .e false, .delay 100]

/-- `RS(0), RW(0)`. -/
def cmd : List Event := [.rs false, .rw false]

/-- `RS(1), RW(0)`. -/
def dat : List Event := [.rs true, .rw false]

/-- The only response `Ok / 0x00`. -/
def ok : List Response := [⟨.ok, 0x00#8⟩]

/-- The only response `Fail / 0x00`. -/
def bad : List Response := [⟨.fail, 0x00#8⟩]

/-- The only response `InvalidArgument / 0x00`. -/
def invalid : List Response := [⟨.invalidArgument, 0x00#8⟩]

/-! ## Well-formedness -/

/-- 43_ddram_print.md R94 (f): 255 bytes are the most one PRINT carries. -/
theorem test_wf_print_255 : WellFormed (.print (List.replicate 255 0x41#8)) := by decide +kernel
theorem test_wf_print_256_refused : ¬ WellFormed (.print (List.replicate 256 0x41#8)) := by decide +kernel

/-! ## Decoding: words written out bit by bit (30_encoding.md R55; 95_test_vectors.md V-DEC) -/

theorem test_dec_init : decode [0b0000000000000000#16] = .ok (.init, []) := by decide
theorem test_dec_clear : decode [0b0001000000000000#16] = .ok (.clear, []) := by decide
theorem test_dec_home : decode [0b0010000000000000#16] = .ok (.home, []) := by decide
theorem test_dec_entry : decode [0b0011000000000010#16] = .ok (.entryModeSet 1#1 0#1, []) := by decide
theorem test_dec_displayOn : decode [0b0100000000000000#16] = .ok (.displayOn, []) := by decide
theorem test_dec_displayOff : decode [0b0101000000000000#16] = .ok (.displayOff, []) := by decide
theorem test_dec_cursorOn : decode [0b0110000000000000#16] = .ok (.cursorOn, []) := by decide
theorem test_dec_cursorOff : decode [0b0111000000000000#16] = .ok (.cursorOff, []) := by decide
theorem test_dec_blinkOn : decode [0b1000000000000000#16] = .ok (.blinkOn, []) := by decide
theorem test_dec_blinkOff : decode [0b1001000000000000#16] = .ok (.blinkOff, []) := by decide
theorem test_dec_setDdramAddr : decode [0b1010000001000001#16] = .ok (.setDdramAddr 0x41#8, []) := by decide
theorem test_dec_print : decode [0b1011000000000001#16, 0x12FF#16, 0xF000#16] =
    .ok (.print [0xFF#8], [0xF000#16]) := by decide
theorem test_dec_functionSet : decode [0b1100000000000000#16] = .ok (.functionSet, []) := by decide
theorem test_dec_cfgw : decode [0b1101001000000001#16] = .ok (.cfgw 2#4 0x01#8, []) := by decide
theorem test_dec_regrd : decode [0b1110010100000000#16] = .ok (.regrd 5#4, []) := by decide
theorem test_dec_payload_missing : decode [0xB003#16, 0x0041#16] = .error (.payloadMissing 2) := by decide
theorem test_dec_print_idx : decode [0xB102#16, 0x0041#16] = .error .idxNotZero := by decide
theorem test_dec_reserved : decode [0xFFFF#16] = .error .reservedOp := by decide

theorem test_bus_clear : decodeBus 0b000000001#9 = .ok .busClearDisplay := by decide
theorem test_bus_home : decodeBus 0b000000010#9 = .ok .busReturnHome := by decide
theorem test_bus_entry : decodeBus 0b000000110#9 = .ok (.busEntryModeSet 1#1 0#1) := by decide
theorem test_bus_display : decodeBus 0b000001100#9 = .ok (.busDisplayControl 1#1 0#1 0#1) := by decide
theorem test_bus_function : decodeBus 0b000110111#9 = .ok (.busFunctionSet 1#1 0#1 1#1 3#2) := by decide
theorem test_bus_ddram : decodeBus 0b011000000#9 = .ok (.busSetDdramAddress 0x40#7) := by decide
theorem test_bus_data : decodeBus 0b101000001#9 = .ok (.busDataWrite 0x41#8) := by decide
theorem test_bus_not_emitted : decodeBus 0b000010000#9 = .error .notEmitted := by decide

/-! ## The opcode table's numbering -/

theorem test_table_cfgw : decodeTableWord 16 0xD201 = some (.cfgw 2#4 0x01#8) := by decide
theorem test_table_print : decodeTableWord 16 0xB002 = some (.print [0x00#8, 0x00#8]) := by decide
theorem test_table_print_payload : decodeTableWord 32 0x0041B001 = some (.print [0x41#8]) := by decide
theorem test_table_bus : decodeTableWord 16 0x138 = some (.busDataWrite 0x38#8) := by decide
theorem test_table_reserved : decodeTableWord 16 0xF000 = none := by decide

/-- The word placed for the next step is what runs: CFGW `CFG_BUS`, 1. -/
theorem test_fetch_cfgw : (nextOf (step (State.reset.withFetchWord 16 0xD201))).map (fun t => t.cfgBus) =
    some 0x01#8 := by decide

/-- A bus byte placed for the next step is transmitted (V-TX, `TX(CMD, 0x0C)` over 4 bits). -/
theorem test_fetch_bus : (nextOf (step (State.reset.withFetchWord 16 0x00C))).map (fun t => (t.events, t.responses)) =
    some (cmd ++ [.data 0x00#8] ++ p ++ [.data 0x0C#8] ++ p, []) := by decide

/-! ## INIT (V-INIT) -/

/-- List A: 8-bit, 2 lines, 5×8, table 0. -/
theorem test_init_list_a : served [0x0000#16] (start 0x01#8) =
    some ([.delay 50000] ++ cmd ++ [.data 0x38#8] ++ p ++ [.delay 4500] ++ cmd ++ [.data 0x0C#8] ++ p ++
      [.delay 4500] ++ cmd ++ [.data 0x01#8] ++ p ++ [.delay 7000] ++ cmd ++ [.data 0x06#8] ++ p, ok) := by
  decide +kernel

/-- The caches after INIT with 1 line, 5×10, 4 bits, table 3. -/
theorem test_init_caches : after (fun t => (t.fss, t.dcs, t.ems)) [0x0000#16]
    { start 0x00#8 with cfgLines := 0x01#8, cfgFont := 0x01#8, cfgAlpha := 0x03#8 } =
    some (0b00111#5, 0b100#3, 0b10#2) := by decide +kernel

/-! ## CLEAR and HOME (V-CH) -/

theorem test_clear : served [0x1000#16] (start 0x00#8) =
    some (cmd ++ [.data 0x00#8] ++ p ++ [.data 0x01#8] ++ p ++ [.delay 7000], ok) := by decide
theorem test_clear_fail : served [0x1000#16] (start 0x07#8) = some (cmd ++ [.delay 7000], bad) := by decide
theorem test_home : served [0x2000#16] (start 0x01#8) =
    some (cmd ++ [.data 0x02#8] ++ p ++ [.delay 2000], ok) := by decide
theorem test_home_fail : served [0x2000#16] (start 0x07#8) = some (cmd ++ [.delay 2000], bad) := by decide

/-! ## Display control (V-DC) -/

theorem test_displayOn : served [0x4000#16] { start 0x01#8 with dcs := 0b001#3 } =
    some (cmd ++ [.data 0x0D#8] ++ p, ok) := by decide
theorem test_displayOff : served [0x5000#16] { start 0x01#8 with dcs := 0b111#3 } =
    some (cmd ++ [.data 0x0B#8] ++ p, ok) := by decide
theorem test_cursorOn : served [0x6000#16] { start 0x01#8 with dcs := 0b100#3 } =
    some (cmd ++ [.data 0x0E#8] ++ p, ok) := by decide
/-- The cache keeps the new value when the transmission fails (decision D17). -/
theorem test_cursorOn_fail : after (fun t => (t.events, t.responses, t.dcs)) [0x6000#16]
    { start 0x07#8 with dcs := 0b100#3 } = some (cmd, bad, 0b110#3) := by decide
theorem test_cursorOff : served [0x7000#16] { start 0x01#8 with dcs := 0b011#3 } =
    some (cmd ++ [.data 0x09#8] ++ p, ok) := by decide
theorem test_blinkOn : served [0x8000#16] { start 0x01#8 with dcs := 0b110#3 } =
    some (cmd ++ [.data 0x0F#8] ++ p, ok) := by decide
theorem test_blinkOff : served [0x9000#16] { start 0x01#8 with dcs := 0b101#3 } =
    some (cmd ++ [.data 0x0C#8] ++ p, ok) := by decide

/-! ## SET_DDRAM_ADDR and PRINT (V-DP, S4, S7) -/

theorem test_ddram_7f : served [0xA07F#16] (start 0x00#8) =
    some (cmd ++ [.data 0x0F#8] ++ p ++ [.data 0xFF#8] ++ p, ok) := by decide
theorem test_ddram_80 : served [0xA080#16] (start 0x07#8) = some ([], [⟨.outOfRange, 0x00#8⟩]) := by decide
theorem test_print_ab : served [0xB002#16, 0x0041#16, 0x0042#16] (start 0x01#8) =
    some (dat ++ [.data 0x41#8] ++ p ++ dat ++ [.data 0x42#8] ++ p, ok) := by decide
theorem test_print_fail : served [0xB002#16, 0x0041#16, 0x0042#16] (start 0x07#8) = some (dat ++ dat, bad) := by
  decide

/-! ## FUNCTION_SET and ENTRY_MODE_SET (V-FE, S1) -/

theorem test_functionSet : after (fun t => (t.events, t.fss)) [0xC000#16] (start 0x01#8) =
    some (cmd ++ [.data 0x38#8] ++ p, 0b11000#5) := by decide
/-- Bit 0 alone of `CFG_FONT` is not looked at. -/
theorem test_functionSet_font : after (fun t => (t.events, t.responses, t.fss)) [0xC000#16]
    { start 0x01#8 with cfgFont := 0x81#8, fss := 0b00001#5 } = some ([], invalid, 0b00001#5) := by decide
theorem test_entryMode : after (fun t => (t.events, t.ems)) [0x3002#16] (start 0x01#8) =
    some (cmd ++ [.data 0x06#8] ++ p, 0b10#2) := by decide
theorem test_entryMode_fail : after (fun t => (t.events, t.responses, t.ems)) [0x3001#16] (start 0x07#8) =
    some (cmd, bad, 0b01#2) := by decide

/-! ## CFGW and REGRD (V-RA) -/

theorem test_cfgw_font : after (fun t => (t.cfgFont, t.responses)) [0xD1FF#16] (start 0x01#8) =
    some (0xFF#8, ok) := by decide
theorem test_cfgw_ems : after (fun t => (t.ems, t.responses)) [0xD403#16] (start 0x01#8) =
    some (0b00#2, invalid) := by decide
theorem test_regrd_fss : served [0xE600#16] { start 0x01#8 with fss := 0b11000#5 } =
    some ([], [⟨.ok, 0x18#8⟩]) := by decide
theorem test_regrd_8 : served [0xE800#16] (start 0x01#8) = some ([], invalid) := by decide

/-! ## Bus bytes (V-TX) -/

theorem test_bus_function_tx : (nextOf (exec (.busFunctionSet 1#1 1#1 0#1 0#2) (start 0x00#8))).map State.events =
    some (cmd ++ [.data 0x03#8] ++ p ++ [.data 0x38#8] ++ p) := by decide
theorem test_bus_clear_tx : (nextOf (exec .busClearDisplay (start 0x00#8))).map State.events =
    some (cmd ++ [.data 0x00#8] ++ p ++ [.data 0x01#8] ++ p) := by decide
theorem test_bus_home_tx : (nextOf (exec .busReturnHome (start 0x01#8))).map State.events =
    some (cmd ++ [.data 0x02#8] ++ p) := by decide
theorem test_bus_entry_tx : (nextOf (exec (.busEntryModeSet 1#1 0#1) (start 0x01#8))).map State.events =
    some (cmd ++ [.data 0x06#8] ++ p) := by decide
theorem test_bus_display_tx : (nextOf (exec (.busDisplayControl 1#1 0#1 0#1) (start 0x00#8))).map State.events =
    some (cmd ++ [.data 0x00#8] ++ p ++ [.data 0x0C#8] ++ p) := by decide
theorem test_bus_ddram_tx : (nextOf (exec (.busSetDdramAddress 0x7F#7) (start 0x00#8))).map State.events =
    some (cmd ++ [.data 0x0F#8] ++ p ++ [.data 0xFF#8] ++ p) := by decide
theorem test_bus_data_tx : (nextOf (exec (.busDataWrite 0xA5#8) (start 0x00#8))).map State.events =
    some (dat ++ [.data 0x0A#8] ++ p ++ [.data 0xA5#8] ++ p) := by decide
/-- Last row of V-TX: the mode pins are driven, the transmission fails. -/
theorem test_bus_data_fail : (nextOf (exec (.busDataWrite 0x41#8) (start 0xFF#8))).map State.events =
    some dat := by decide

/-! ## The port, reset, the assembler -/

/-- V-DEC: an illegal word is answered and nothing else happens. -/
theorem test_illegal_word : served [0x1001#16, 0x1000#16] (start 0x01#8) = some ([], invalid) := by decide
/-- V-DP: after the illegal header `0xB102` the next word is a request. -/
theorem test_illegal_print_header : after State.requests [0xB102#16, 0x0041#16] (start 0x01#8) =
    some [0x0041#16] := by decide
/-- Program 6 of 95_test_vectors.md: INIT with a missing primitive. -/
theorem test_init_bind : served [0x0000#16] { start 0x01#8 with bind := 0xFE#8 } = some ([], invalid) := by decide
/-- 60_exceptions.md R114, R113: the codes, and the two-valued view. -/
theorem test_status_code : (Status.ok.code, Status.outOfRange.code, Status.outOfRange.twoValued) =
    (0b00#2, 0b11#2, .fail) := by decide

/-- Program 2 of 95_test_vectors.md, its last two lines. -/
theorem test_asm_lines : Assembler.assemble "SET_DDRAM_ADDR 0x40\nPUTC 0x48 ; H".toList =
    some [0xA040#16, 0xB001#16, 0x0048#16] := by decide +kernel
/-- Program 1 of 95_test_vectors.md. -/
theorem test_asm_config : Assembler.assemble "CONFIG 2, 0, 1, 0\nINIT\nPRINT \"AB\"".toList =
    some [0xD002#16, 0xD100#16, 0xD201#16, 0xD300#16, 0x0000#16, 0xB002#16, 0x0041#16, 0x0042#16] := by
  decide +kernel
/-- Program 4 of 95_test_vectors.md: names, and a raw word. -/
theorem test_asm_names : Assembler.assemble "CFGW FONT, 5\n.word 0xF000\nREGRD BIND\nENTRY_MODE_SET 0, 1".toList =
    some [0xD105#16, 0xF000#16, 0xE700#16, 0x3001#16] := by decide +kernel
theorem test_asm_bad : Assembler.assemble "CFGW 16, 0".toList = none := by decide +kernel

/-! ## Witnesses: a state and operands that meet the hypotheses of each statement -/

/-- A decidable check of the next state of an outcome. -/
def reaches (o : Host.Outcome State Fault Refusal) (f : State → Bool) : Bool := ((nextOf o).map f).getD false

/-- An idle block with these words before it. -/
def idleWith (ws : List Word) : State := { start 0x01#8 with requests := ws }

theorem witness_ActiveResetAbandonsAndIdles : (setRst true (idleWith [0x1000#16])).rst = true ∧
    ∃ t, step (idleWith [0x1000#16]) = .next t := ⟨by decide, _, rfl⟩

/-- 70_reset_and_hazards.md R131: CLEAR abandoned with the strobe high: the events before it stay, no response. -/
theorem test_reset_during : (nextOf (resetDuring 6 (idleWith [0x1000#16]))).map
    (fun t => (t.events, t.responses, t.pins.e, t.busy)) =
    some (cmd ++ [.data 0x01#8, .e false, .delay 1, .e true], [], true, false) := by decide

theorem witness_IdleBlockWaits : Idle State.reset ∧ State.reset.requests = [] := by decide

theorem witness_StepRunsDecodedRequest : Idle (idleWith [0xA0FF#16, 0x1000#16]) ∧
    decode (idleWith [0xA0FF#16, 0x1000#16]).requests = .ok (.setDdramAddr 0xFF#8, [0x1000#16]) := by decide

theorem witness_StepSendsBusByte : (Instr.busDataWrite 0xFF#8).isHost = false ∧
    (some 0b111111111#9 : Option BusByte) = some (encodeBus (.busDataWrite 0xFF#8)) := by decide

/-- Words at the ends of R55's ranges: illegal ones, and legal ones for the second clause. -/
theorem witness_IllegalWordIsRejected : Idle (idleWith [0x0001#16]) ∧
    ([0x0001#16, 0x3004#16, 0xA100#16, 0xB100#16, 0xE001#16, 0xF000#16, 0xFFFF#16].all
      fun w => Spec.matchesRow w == false) = true ∧
    ([0x0000#16, 0x3003#16, 0xA0FF#16, 0xB0FF#16, 0xDFFF#16, 0xEF00#16].all Spec.matchesRow) = true := by decide

theorem witness_RequestLengthIsKnownFromHeader :
    decode [0xB001#16, 0xFFFF#16, 0x1000#16] = .ok (.print [0xFF#8], [0x1000#16]) ∧
    decode [0xC000#16, 0x1000#16] = .ok (.functionSet, [0x1000#16]) ∧
    (0xB102#16 &&& 0xF000#16 = 0xB000#16 ∧ 0xB102#16 &&& 0x0F00#16 ≠ 0#16) := by decide

/-- The smallest and the largest count. -/
theorem witness_PayloadWordsAreNeverDecoded : ([] : List Word).length = (0x00#8).toNat ∧
    (List.replicate 255 0xF000#16).length = (0xFF#8).toNat := by decide +kernel

/-- The header alone, an open PRINT short of one word, and one that has come. -/
theorem witness_PrintWaitsForItsPayload :
    (Idle (idleWith [0xB001#16]) ∧ ([] : List Word).length < (0x01#8).toNat ∧
      (idleWith [0xB001#16]).requests = [0xB000#16 ||| (0x01#8).setWidth 16]) ∧
    (let s := { idleWith [0x0042#16] with accepted := [0xB003#16, 0x0041#16], busy := true };
      s.rst = false ∧ s.txByte = none ∧ s.accepted = [0xB000#16 ||| (0x03#8).setWidth 16, 0x0041#16] ∧
      [0x0041#16].length + s.requests.length < (0x03#8).toNat) ∧
    (let s := { idleWith [0x0042#16, 0x1000#16] with accepted := [0xB002#16, 0x0041#16], busy := true };
      s.rst = false ∧ s.txByte = none ∧ s.accepted = [0xB000#16 ||| (0x02#8).setWidth 16, 0x0041#16] ∧
      s.requests = [0x0042#16] ++ [0x1000#16] ∧ [0x0041#16].length + [0x0042#16].length = (0x02#8).toNat) := by
  decide

theorem witness_OverlappingWordHasNoEffect :
    (let s := { State.reset with busy := true }; s.busy = true ∧ s.accepted = []) ∧
    (¬(State.reset.busy = true ∧ State.reset.accepted = [])) ∧
    (let s := { State.reset with busy := true, accepted := [0xB001#16] }; ¬(s.busy = true ∧ s.accepted = [])) := by
  decide

theorem witness_RequestPointerCountsWords : Idle (idleWith [0xB001#16, 0x0041#16, 0x1000#16]) ∧
    reaches (step (idleWith [0xB001#16, 0x0041#16, 0x1000#16])) (fun t => decide (t.rp = 2)) = true := by decide

theorem witness_StepKeepsInputsAndHistory :
    reaches (step (idleWith [0x1000#16])) (fun t => decide (t.events.length = 10)) = true := by decide

theorem witness_DecodeEncodeAgree : (Instr.print (List.replicate 255 0xFF#8)).isHost = true ∧
    WellFormed (.print (List.replicate 255 0xFF#8)) := by decide +kernel

theorem witness_EncodeDecodeAgree : decode [0x3001#16, 0xFFFF#16] = .ok (.entryModeSet 0#1 1#1, [0xFFFF#16]) := by
  decide

theorem witness_BusDecodeEncodeAgree : (Instr.busSetDdramAddress 0x7F#7).isHost = false ∧
    decodeBus 0b000111111#9 = .ok (.busFunctionSet 1#1 1#1 1#1 3#2) ∧
    Spec.commandByte 0x03#8 = false ∧ Spec.commandByte 0x10#8 = false ∧ Spec.commandByte 0x40#8 = false := by decide

/-- The three bus widths, the smallest illegal one among them. -/
theorem witness_TransmitterEmitsTransmission : (start 0x01#8).cfgBus = 0x01#8 ∧ (start 0x00#8).cfgBus = 0x00#8 ∧
    Spec.legalBus (start 0x02#8).cfgBus = false := by decide

theorem witness_StatusOrMarksAnyFailure : (Status.ok = .ok ∨ Status.ok = .fail) ∧
    (Status.fail = .ok ∨ Status.fail = .fail) := by decide

theorem witness_InitRunsWholeSequence : (start 0x00#8).bind = 0xFF#8 ∧ Spec.legalConfig (start 0x00#8) = true ∧
    Spec.legalConfig (start 0x01#8) = true ∧ (start 0x00#8).cfgBus = 0x00#8 ∧
    (let s := { start 0x01#8 with bind := 0x7F#8 }; s.bind ≠ 0xFF#8 ∨ Spec.legalLines s.cfgLines = false) ∧
    (let s := { start 0x01#8 with cfgFont := 0x02#8 };
      s.bind = 0xFF#8 ∧ Spec.legalLines s.cfgLines = true ∧ Spec.legalConfig s = false) := by decide

theorem witness_InitRejectsBadConfiguration :
    (let s := { start 0x01#8 with bind := 0xFE#8 }; s.bind ≠ 0xFF#8 ∨ Spec.legalLines s.cfgLines = false) ∧
    (let s := { start 0x01#8 with cfgLines := 0x03#8 }; s.bind ≠ 0xFF#8 ∨ Spec.legalLines s.cfgLines = false) ∧
    (let s := { start 0x01#8 with cfgAlpha := 0x04#8 };
      s.bind = 0xFF#8 ∧ Spec.legalLines s.cfgLines = true ∧ Spec.legalConfig s = false) := by decide

theorem witness_ClearSendsAndWaits : ([0x00#8, 0x01#8, 0x07#8].all fun b =>
    Spec.present (start b).bind (Spec.transmission (start b).cfgBus false 0x01#8 ++ [.delay 7000])) = true := by
  decide

theorem witness_HomeSendsAndWaits : ([0x00#8, 0x01#8, 0x07#8].all fun b =>
    Spec.present (start b).bind (Spec.transmission (start b).cfgBus false 0x02#8 ++ [.delay 2000])) = true := by
  decide

theorem witness_DisplayControlUpdatesAndSends :
    (.blinkOff, 0x9000#16, 0, false, 0b110#3) ∈ Spec.displayOps 0b111#3 ∧
    Spec.present (start 0x00#8).bind (Spec.transmission 0x00#8 false (BitVec.ofNat 8 (0x08 + 6))) = true := by decide

theorem witness_DisplayBitsAreIndependent :
    (.cursorOn, 0x6000#16, 1, true, 0b010#3) ∈ Spec.displayOps (start 0x07#8).dcs ∧
    reaches (exec .cursorOn (start 0x07#8)) (fun t => reaches (exec .cursorOn t) fun u => decide (u.dcs = 0b010#3)) =
      true := by decide

theorem witness_SetDdramAddrChecksThenSends : 0x7F < (0x80#8).toNat ∧ (0x7F#8).toNat ≤ 0x7F ∧
    Spec.present (start 0x07#8).bind (Spec.transmission 0x07#8 false (BitVec.ofNat 8 (0x80 + 0x7F))) = true := by
  decide

theorem witness_PrintSendsEveryByte :
    Spec.present (start 0x00#8).bind (Spec.dataTransmissions 0x00#8 [0x41#8, 0xFF#8]) = true ∧
    Spec.present 0x00#8 (Spec.dataTransmissions 0x00#8 []) = true := by decide

theorem witness_TwoPrintsAreOneJoined :
    reaches (exec (.print [0x41#8]) (start 0x01#8)) (fun t =>
      reaches (exec (.print [0x42#8]) t) fun u => decide (u.events.length = 18)) = true := by decide

/-- The ends of the four domains. -/
theorem witness_FunctionSetPacksAndSends :
    (let s := { start 0x01#8 with cfgFont := 0x01#8, cfgAlpha := 0x03#8 }; Spec.legalConfig s = true ∧
      Spec.present s.bind (Spec.transmission s.cfgBus false (BitVec.ofNat 8 (0x20 + Spec.fssNumber s))) = true) ∧
    Spec.legalConfig { start 0x00#8 with cfgLines := 0x01#8 } = true := by decide

theorem witness_FunctionSetRejectsBadParameter :
    ([{ start 0x01#8 with cfgLines := 0x00#8 }, { start 0x01#8 with cfgFont := 0x02#8 }, start 0x02#8,
      { start 0x01#8 with cfgAlpha := 0x04#8 }].all fun s => Spec.legalConfig s == false) = true := by decide

theorem witness_EntryModeSetCachesAndSends : Spec.present (start 0x07#8).bind
    (Spec.transmission 0x07#8 false (BitVec.ofNat 8 (0x04 + 2 * (1#1).toNat + (1#1).toNat))) = true := by decide

/-- The indices where the clauses meet. -/
theorem witness_CfgwWritesConfiguration :
    reaches (exec (.cfgw 3#4 0xFF#8) (start 0x01#8)) (fun t => decide (t.cfgAlpha = 0xFF#8)) = true ∧
    reaches (exec (.cfgw 4#4 0xFF#8) (start 0x01#8)) (fun t => decide (t.ems = 0b00#2)) = true := by decide

theorem witness_RegrdAnswersRegister : (7#4).toNat ≤ 7 ∧ ¬(8#4).toNat ≤ 7 := by decide

/-- An instruction other than PRINT: CURSOR_ON, sent over four wires after the change. -/
theorem witness_BusWidthTakesEffectAtNextByte :
    reaches (exec (.cfgw 2#4 0x00#8) (start 0x01#8)) (fun t =>
      reaches (exec .cursorOn t) fun u => decide (u.events.length = 16)) = true := by decide

theorem witness_BusRowsAreTransmitted : (Instr.busDataWrite 0x00#8).isHost = false ∧
    Spec.present (start 0x00#8).bind (Spec.transmission 0x00#8 true 0x00#8) = true := by decide

theorem witness_CompleteInterfaceRefusesNothing : State.reset.bind = 0xFF#8 := by decide

/-- `0x08` has only `clearRegisterSelect`: the failed transmission still needs `clearReadWrite`. -/
theorem witness_EventsAreThoseOrRefused :
    (let s := { start 0x07#8 with bind := 0x08#8 }; Spec.present s.bind (Spec.operationEvents .clear s) = false) ∧
    (let s := { start 0x07#8 with bind := 0x28#8 };
      Spec.present s.bind (Spec.operationEvents .displayOn s) = true) ∧
    (∃ r, exec .clear { start 0x07#8 with bind := 0x08#8 } = .refused r) :=
  ⟨by decide, by decide, _, rfl⟩

theorem witness_RequestFrame : ∃ t, Instr.isHost .cursorOn = true ∧ exec .cursorOn (start 0x00#8) = .next t :=
  ⟨_, rfl, rfl⟩

theorem witness_EachRegisterHasItsWriters : (∃ t, exec (.cfgw 0#4 0x01#8) (start 0x00#8) = .next t ∧
    t.cfgLines ≠ (start 0x00#8).cfgLines) ∧ (∃ t, exec .displayOn (start 0x00#8) = .next t ∧
    t.dcs ≠ (start 0x00#8).dcs) ∧ (∃ t, exec (.entryModeSet 1#1 1#1) (start 0x00#8) = .next t ∧
    t.ems ≠ (start 0x00#8).ems) ∧ (∃ t, exec .functionSet (start 0x00#8) = .next t ∧
    t.fss ≠ (start 0x00#8).fss) :=
  ⟨⟨_, rfl, by decide⟩, ⟨_, rfl, by decide⟩, ⟨_, rfl, by decide⟩, ⟨_, rfl, by decide⟩⟩

theorem witness_OneResponsePerRequest : ∃ t, Instr.isHost (.regrd 7#4) = true ∧
    exec (.regrd 7#4) (start 0x00#8) = .next t := ⟨_, rfl, rfl⟩

/-- One failed request for each status. -/
theorem witness_FailedRequestEffects :
    (∃ t, exec .clear (start 0x07#8) = .next t ∧ t.responses = (start 0x07#8).responses ++ [⟨.fail, 0x00#8⟩]) ∧
    (∃ t, exec .functionSet (start 0x07#8) = .next t ∧
      t.responses = (start 0x07#8).responses ++ [⟨.invalidArgument, 0x00#8⟩]) ∧
    (∃ t, exec (.setDdramAddr 0x80#8) (start 0x01#8) = .next t ∧
      t.responses = (start 0x01#8).responses ++ [⟨.outOfRange, 0x00#8⟩]) ∧
    (∃ t, exec .cursorOn (start 0x07#8) = .next t ∧ t.responses = (start 0x07#8).responses ++ [⟨.fail, 0x00#8⟩] ∧
      (.cursorOn, 0x6000#16, 1, true, 0b010#3) ∈ Spec.displayOps (start 0x07#8).dcs) ∧
    (∃ t, exec (.entryModeSet 1#1 1#1) (start 0x07#8) = .next t ∧
      t.responses = (start 0x07#8).responses ++ [⟨.fail, 0x00#8⟩]) :=
  ⟨⟨_, rfl, rfl⟩, ⟨_, rfl, rfl⟩, ⟨_, rfl, rfl⟩, ⟨_, rfl, rfl, by decide⟩, ⟨_, rfl, rfl⟩⟩

theorem witness_FailureLatchesNothing : ∃ t, Instr.isHost .home = true ∧ exec .home (start 0x07#8) = .next t ∧
    t.responses = (start 0x07#8).responses ++ [⟨.fail, 0x00#8⟩] ∧ Status.fail ≠ .ok := ⟨_, rfl, rfl, rfl, by decide⟩

theorem witness_OwnCheckComesBeforeTransmission :
    Spec.legalBus (start 0x02#8).cfgBus = false ∧ 0x7F < (0x80#8).toNat ∧
    (start 0x02#8).bind = 0xFF#8 ∧ Spec.legalLines (start 0x02#8).cfgLines = true ∧
    Spec.legalLines { start 0x02#8 with cfgLines := 0x03#8 }.cfgLines = false := by decide

theorem witness_StrobeCounts : ∃ t, Instr.isHost (.print [0x41#8]) = true ∧
    exec (.print [0x41#8]) (start 0x00#8) = .next t ∧
    t.responses = (start 0x00#8).responses ++ [⟨.ok, 0x00#8⟩] := ⟨_, rfl, rfl, rfl⟩

theorem witness_MinimumTimes :
    (∃ t, exec .clear (start 0x00#8) = .next t ∧ t.responses = (start 0x00#8).responses ++ [⟨.ok, 0x00#8⟩]) ∧
    (∃ t, exec .init (start 0x02#8) = .next t ∧
      t.responses = (start 0x02#8).responses ++ [⟨.invalidArgument, 0x00#8⟩]) :=
  ⟨⟨_, rfl, rfl⟩, ⟨_, rfl, rfl⟩⟩

theorem witness_EventsAreBounded : WellFormed (.print []) ∧ ∃ t, exec (.print []) (start 0x00#8) = .next t :=
  ⟨rfl, _, rfl⟩

theorem witness_BusIsNeverRead : ∃ t, exec .clear (start 0x00#8) = .next t := ⟨_, rfl⟩

theorem witness_PulsesAreNeverSplit : ∃ t, exec (.busDataWrite 0xFF#8) (start 0x00#8) = .next t := ⟨_, rfl⟩

theorem witness_CacheAgreesWithByteReceived : Spec.legalBus (start 0x00#8).cfgBus = true ∧
    (∃ t, exec .init (start 0x00#8) = .next t) ∧ Spec.isDisplayOp .blinkOff = true ∧
    (start 0x00#8).bind = 0xFF#8 ∧ Spec.legalConfig (start 0x00#8) = true :=
  ⟨by decide, ⟨_, rfl⟩, by decide, by decide, by decide⟩

theorem witness_StepKeepsInvariant : Inv (idleWith [0x1000#16]) ∧ ∃ t, step (idleWith [0x1000#16]) = .next t :=
  ⟨by decide, _, rfl⟩

/-- The invariant inside a PRINT. -/
theorem witness_HostMovesKeepInvariant :
    Inv { State.reset with busy := true, accepted := [0xB002#16, 0x0041#16] } := by decide

/-- A pulse cut with the strobe high: the invariant of the cut, without whole pulses. -/
theorem witness_CutInvariantIsKept : CutInv (idleWith [0x1000#16]) ∧
    (∃ u, resetDuring 6 (idleWith [0x1000#16]) = .next u ∧ u.pins.e = true ∧ pulsesWhole u.events = false) ∧
    ∃ t, step (idleWith [0x1000#16]) = .next t := ⟨by decide, ⟨_, rfl, by decide⟩, _, rfl⟩

/-- 70_reset_and_hazards.md R131: an open PRINT that RST meets while it waits is abandoned. -/
theorem witness_CutInvariantIsKept_open :
    CutInv { State.reset with busy := true, accepted := [0xB002#16, 0x0041#16] } ∧
    ∃ u, resetDuring 0 { State.reset with busy := true, accepted := [0xB002#16, 0x0041#16] } = .next u ∧
      u.busy = false ∧ u.accepted = [] := ⟨by decide, _, rfl, rfl, rfl⟩

theorem witness_CompleteStreamIsServed :
    Idle (idleWith [0xB001#16, 0x0041#16, 0xF000#16]) ∧ (idleWith [0xB001#16, 0x0041#16, 0xF000#16]).busy = false ∧
    (idleWith [0xB001#16, 0x0041#16, 0xF000#16]).bind = 0xFF#8 ∧
    streamComplete 0 (idleWith [0xB001#16, 0x0041#16, 0xF000#16]).requests = true := by decide

/-- Only `CFG_BUS` has been written; PRINT reads nothing else. -/
theorem witness_UnwrittenRegistersCannotShow : safeRequest [.bind, .cfgBus] (.print [0x41#8]) = true ∧
    AgreeOn [.bind, .cfgBus] (start 0x01#8) { start 0x01#8 with cfgLines := 0x55#8, dcs := 0b111#3 } ∧
    ∃ t, exec (.print [0x41#8]) (start 0x01#8) = .next t :=
  ⟨by decide, by decide, _, rfl⟩

end Sys2Proof.Tests
end

/-! What an instruction does, in the words of `Sys2Proof.Spec`: its events, the registers it writes and its response,
said once for all instructions (`exec_eq_commit`). -/

namespace Sys2Proof.Machine

open Sys2Proof.Safety

/-! ## The machine's bytes and event lists are those of the spec -/

theorem allPresent_eq_present (bind : Byte) (es : List Event) : allPresent bind es = Spec.present bind es := by
  have hbit : ∀ e, bindBit (primitiveOf e) = Spec.primitiveBit e := by
    intro e
    rcases e with _ | _ | (_ | _) | (_ | _) | (_ | _) <;> rfl
  simp [allPresent, Spec.present, hbit]

theorem txEvents_eq_transmission (bus : Byte) (m : TxMode) (b : Byte) :
    txEvents bus m b = Spec.transmission bus (rsLevel m) b := by
  by_cases h8 : bus = 0x01#8
  · subst h8; rfl
  · by_cases h4 : bus = 0x00#8
    · subst h4; rfl
    · simp [txEvents, Spec.transmission, Params.bus8, Params.bus4, h8, h4]

theorem flatMap_txEvents_eq_dataTransmissions (bus : Byte) (bs : List Byte) :
    bs.flatMap (txEvents bus .dat) = Spec.dataTransmissions bus bs := by
  induction bs with
  | nil => rfl
  | cons b bs ih => simp [Spec.dataTransmissions, txEvents_eq_transmission, rsLevel, ih]

theorem displayControlByte_eq (dcs : BitVec 3) :
    displayControlByte dcs = BitVec.ofNat 8 (0x08 + dcs.toNat) := by
  revert dcs; decide

theorem packEms_toNat (id sh : BitVec 1) : (packEms id sh).toNat = 2 * id.toNat + sh.toNat := by
  revert id sh; decide

theorem entryModeByte_packEms (id sh : BitVec 1) :
    entryModeByte (packEms id sh) = BitVec.ofNat 8 (0x04 + 2 * id.toNat + sh.toNat) := by
  revert id sh; decide

theorem functionSetByte_eq (fss : BitVec 5) : functionSetByte fss = BitVec.ofNat 8 (0x20 + fss.toNat) := by
  revert fss; decide

theorem ddramByte_eq (addr : Byte) (h : addr.toNat ≤ 0x7F) :
    ddramByte addr = BitVec.ofNat 8 (0x80 + addr.toNat) := by
  revert addr; decide

theorem ddramMax_lt_iff (addr : Byte) : Params.ddramMax < addr ↔ 0x7F < addr.toNat := BitVec.lt_def

/-! ## Legal configurations -/

theorem mem_alphas_iff (v : Byte) : v ∈ Params.alphas ↔ v.toNat ≤ 3 := by
  revert v; decide

theorem configOk_iff (s : State) : configOk s = true ↔
    s.cfgBus ∈ Params.busWidths ∧ s.cfgLines ∈ Params.linesLegal ∧ s.cfgFont ∈ Params.fonts ∧
      s.cfgAlpha ∈ Params.alphas := by
  simp [configOk, linesOk, and_assoc]

theorem linesOk_eq_legalLines (s : State) : linesOk s = Spec.legalLines s.cfgLines := by
  simp [linesOk, Spec.legalLines, Params.linesLegal]

theorem legalConfig_eq_configOk (s : State) : Spec.legalConfig s = configOk s := by
  rw [Bool.eq_iff_iff, configOk_iff, mem_alphas_iff]
  simp [Spec.legalConfig, Spec.legalBus, Spec.legalLines, Spec.legalFont, Spec.legalAlpha, Params.busWidths,
    Params.linesLegal, Params.fonts, Params.bus4, Params.bus8, and_assoc]

theorem legalBus_of_configOk {s : State} (h : configOk s = true) : Spec.legalBus s.cfgBus = true := by
  rw [← legalConfig_eq_configOk] at h
  simp only [Spec.legalConfig, Bool.and_eq_true] at h
  exact h.1.1.1

theorem legalLines_of_configOk {s : State} (h : configOk s = true) : Spec.legalLines s.cfgLines = true := by
  rw [← legalConfig_eq_configOk] at h
  simp only [Spec.legalConfig, Bool.and_eq_true] at h
  exact h.1.1.2

/-- The 32 legal combinations (45_function_set_entry_mode.md R104). -/
theorem packFss_toNat_of_mem : ∀ bus ∈ Params.busWidths, ∀ lines ∈ Params.linesLegal, ∀ font ∈ Params.fonts,
    ∀ alpha ∈ Params.alphas, (packFss bus lines font alpha).toNat =
      16 * bus.toNat + 8 * (lines.toNat - 1) + 4 * font.toNat + alpha.toNat := by
  decide

theorem fssOf_toNat {s : State} (h : configOk s = true) : (fssOf s).toNat = Spec.fssNumber s := by
  obtain ⟨hbus, hlines, hfont, halpha⟩ := (configOk_iff s).1 h
  exact packFss_toNat_of_mem _ hbus _ hlines _ hfont _ halpha

theorem functionSetByte_fssOf {s : State} (h : configOk s = true) :
    functionSetByte (fssOf s) = BitVec.ofNat 8 (0x20 + Spec.fssNumber s) := by
  rw [functionSetByte_eq, fssOf_toNat h]

/-- The list of a successful INIT as delays and transmissions (40_init.md R76, R79). -/
theorem specInitEvents_eq {bus : Byte} (fs : Byte) (h : Spec.legalBus bus = true) :
    Spec.initEvents bus fs =
      [.delay 50000] ++ Spec.transmission bus false fs ++ [.delay 4500] ++ Spec.transmission bus false 0x0C#8 ++
        [.delay 4500] ++ Spec.transmission bus false 0x01#8 ++ [.delay 7000] ++
        Spec.transmission bus false 0x06#8 := by
  simp only [Spec.legalBus, Bool.or_eq_true, decide_eq_true_eq] at h
  rcases h with rfl | rfl <;> simp [Spec.initEvents, Spec.transmission]

theorem initEvents_fssOf {s : State} (h : configOk s = true) :
    initEvents s.cfgBus (fssOf s) = Spec.initEvents s.cfgBus (BitVec.ofNat 8 (0x20 + Spec.fssNumber s)) := by
  rw [specInitEvents_eq _ (legalBus_of_configOk h), ← functionSetByte_fssOf h]
  simp only [initEvents, txEvents_eq_transmission]
  rfl

/-! ## The three parts of what an instruction does -/

/-- `s` with the registers the instruction writes (the rules of files 40, 42, 45 and 46). -/
def regsAfter (i : Instr) (s : State) : State :=
  match i with
  | .init =>
    if initReady s && configOk s then { s with fss := fssOf s, dcs := dcsAfterInit, ems := packEms 1#1 0#1 } else s
  | .entryModeSet id sh => { s with ems := packEms id sh }
  | .displayOn => { s with dcs := s.dcs ||| 0b100#3 }
  | .displayOff => { s with dcs := s.dcs &&& 0b011#3 }
  | .cursorOn => { s with dcs := s.dcs ||| 0b010#3 }
  | .cursorOff => { s with dcs := s.dcs &&& 0b101#3 }
  | .blinkOn => { s with dcs := s.dcs ||| 0b001#3 }
  | .blinkOff => { s with dcs := s.dcs &&& 0b110#3 }
  | .functionSet => if configOk s then { s with fss := fssOf s } else s
  | .cfgw idx val => ((regAt idx).bind (writeReg · val s)).getD s
  | .clear | .home | .setDdramAddr _ | .print _ | .regrd _
  | .busClearDisplay | .busReturnHome | .busEntryModeSet _ _ | .busDisplayControl _ _ _
  | .busFunctionSet _ _ _ _ | .busSetDdramAddress _ | .busDataWrite _ => s

/-- The response of a request; a bus row has none (30_encoding.md R57, log 7). -/
def answer (i : Instr) (s : State) : Option Response :=
  match i with
  | .init => some ⟨if initReady s && configOk s then .ok else .invalidArgument, 0x00#8⟩
  | .setDdramAddr addr => some ⟨if Params.ddramMax < addr then .outOfRange else txStatus s.cfgBus, 0x00#8⟩
  | .print bytes => some ⟨if bytes.isEmpty then .ok else txStatus s.cfgBus, 0x00#8⟩
  | .functionSet => some ⟨if configOk s then .ok else .invalidArgument, 0x00#8⟩
  | .cfgw idx val => some ⟨if ((regAt idx).bind (writeReg · val s)).isSome then .ok else .invalidArgument, 0x00#8⟩
  | .regrd idx => some ((regAt idx).elim ⟨.invalidArgument, 0x00#8⟩ fun r => ⟨.ok, readReg r s⟩)
  | .clear | .home | .entryModeSet _ _ | .displayOn | .displayOff | .cursorOn | .cursorOff
  | .blinkOn | .blinkOff => some ⟨txStatus s.cfgBus, 0x00#8⟩
  | .busClearDisplay | .busReturnHome | .busEntryModeSet _ _ | .busDisplayControl _ _ _
  | .busFunctionSet _ _ _ _ | .busSetDdramAddress _ | .busDataWrite _ => none

/-- `s` after an answer, if there is one: it joins the responses and `BUSY` falls (30_encoding.md R53). -/
def conclude (a : Option Response) (s : State) : State :=
  { s with responses := s.responses ++ a.toList, busy := s.busy && a.isNone }

theorem conclude_none (s : State) : conclude none s = s := by
  simp [conclude]

theorem conclude_some (r : Response) (s : State) : conclude (some r) s = respond r.status r.rdata s := by
  simp [conclude, respond]

/-- The state an instruction leaves when no primitive is missing. -/
def stateAfter (i : Instr) (s : State) : State :=
  conclude (answer i s) (emitAll (Spec.operationEvents i s) (regsAfter i s))

/-! ## Every operation does these three things -/

theorem initReady_iff (s : State) :
    initReady s = true ↔ s.bind = 0xFF#8 ∧ Spec.legalLines s.cfgLines = true := by
  rw [initReady, linesOk_eq_legalLines, Bool.and_eq_true, decide_eq_true_eq, Params.bindComplete]

theorem opInit_eq_parts (s : State) :
    opInit s = (if initReady s && configOk s then .ok else .invalidArgument,
      emitAll (Spec.operationEvents .init s) (regsAfter .init s)) := by
  simp only [opInit_eq, Spec.operationEvents, regsAfter, ← initReady_iff, legalConfig_eq_configOk]
  by_cases hr : initReady s = true
  · by_cases hc : configOk s = true
    · simp [hr, hc, initEvents_fssOf hc]
    · simp [hr, hc, Params.tPower]
  · simp [hr]

theorem dctl_eq_transmission {k : Nat} {on : Bool} {new : BitVec 3} (s : State) (h : dctlBits k on s.dcs = new) :
    dctl k on s = (txStatus s.cfgBus,
      emitAll (Spec.transmission s.cfgBus false (BitVec.ofNat 8 (0x08 + new.toNat))) { s with dcs := new }) := by
  rw [dctl_eq, h, txEvents_eq_transmission, displayControlByte_eq]
  rfl

theorem opSetDdramAddr_eq_parts (addr : Byte) (s : State) :
    opSetDdramAddr addr s = (if Params.ddramMax < addr then .outOfRange else txStatus s.cfgBus,
      emitAll (Spec.operationEvents (.setDdramAddr addr) s) s) := by
  rw [opSetDdramAddr_eq]
  by_cases h : 0x7F < addr.toNat
  · simp [Spec.operationEvents, ddramMax_lt_iff, h]
  · simp [Spec.operationEvents, ddramMax_lt_iff, h, txEvents_eq_transmission, ddramByte_eq addr (by omega), rsLevel]

theorem printLoop_eq_parts (bytes : List Byte) (s : State) :
    printLoop .ok bytes s = (if bytes.isEmpty then .ok else txStatus s.cfgBus,
      emitAll (Spec.operationEvents (.print bytes) s) s) := by
  rw [printLoop_eq, flatMap_txEvents_eq_dataTransmissions]
  cases bytes with
  | nil => rfl
  | cons b bs => rw [printStatus_cons]; rfl

theorem opFunctionSet_eq_parts (s : State) :
    opFunctionSet s = (if configOk s then .ok else .invalidArgument,
      emitAll (Spec.operationEvents .functionSet s) (regsAfter .functionSet s)) := by
  simp only [opFunctionSet_eq, Spec.operationEvents, regsAfter, legalConfig_eq_configOk]
  by_cases hc : configOk s = true
  · simp [hc, txEvents_eq_transmission, functionSetByte_fssOf hc, rsLevel]
  · simp [hc]

theorem opCfgw_eq_parts (idx : BitVec 4) (val : Byte) (s : State) :
    opCfgw idx val s = (if ((regAt idx).bind (writeReg · val s)).isSome then .ok else .invalidArgument,
      regsAfter (.cfgw idx val) s) := by
  simp only [opCfgw, regsAfter]
  cases (regAt idx).bind (writeReg · val s) <;> rfl

theorem execRegrd_eq_commit (idx : BitVec 4) (s : State) :
    execRegrd idx s = commit s (stateAfter (.regrd idx) s) := by
  simp only [execRegrd, stateAfter, Spec.operationEvents, regsAfter, emitAll_nil, answer, conclude_some, finish, raise]
  cases regAt idx <;> rfl

/-- A bus row is the transmission of its byte (log 7). -/
theorem exec_eq_transmit {i : Instr} (h : i.isHost = false) (s : State) : exec i s = transmit (encodeBus i) s := by
  cases i with
  | busClearDisplay | busReturnHome | busEntryModeSet | busDisplayControl | busFunctionSet | busSetDdramAddress
  | busDataWrite => rfl
  | _ => cases h

/-- The mode and the data lines of each bus row (30_encoding.md R60 to R66). -/
theorem busMode_busData_encodeBus {i : Instr} (h : i.isHost = false) :
    (rsLevel (busMode (encodeBus i)), busData (encodeBus i)) = Spec.busRow i := by
  cases i with
  | busClearDisplay => rfl
  | busReturnHome => rfl
  | busEntryModeSet j sh => revert j sh; decide
  | busDisplayControl d c b => revert d c b; decide
  | busFunctionSet l n f a => revert l n f a; decide
  | busSetDdramAddress a => revert a; decide
  | busDataWrite d => revert d; decide
  | _ => cases h

/-- All that an instruction does, said once: it ends in `commit` on the state of its three parts. -/
theorem exec_eq_commit (i : Instr) (s : State) : exec i s = commit s (stateAfter i s) := by
  have host : ∀ {op : State → Status × State} {st : Status}, answer i s = some ⟨st, 0x00#8⟩ →
      op s = (st, emitAll (Spec.operationEvents i s) (regsAfter i s)) → perform op s = commit s (stateAfter i s) := by
    intro op st ha ho
    rw [perform, finish, ho, stateAfter, ha, conclude_some]
  have bus : i.isHost = false → answer i s = none → regsAfter i s = s → Spec.operationEvents i s =
      Spec.transmission s.cfgBus (Spec.busRow i).1 (Spec.busRow i).2 → exec i s = commit s (stateAfter i s) := by
    intro hi ha hr he
    rw [exec_eq_transmit hi, transmit, tx_eq, txEvents_eq_transmission, stateAfter, ha, hr, he, conclude_none,
      ← busMode_busData_encodeBus hi]
  cases i with
  | init => exact host rfl (opInit_eq_parts s)
  | clear => exact host rfl (by rw [opClear_eq, txEvents_eq_transmission]; rfl)
  | home => exact host rfl (by rw [opHome_eq, txEvents_eq_transmission]; rfl)
  | entryModeSet id sh =>
    exact host rfl (by rw [opEntryModeSet_eq, txEvents_eq_transmission, entryModeByte_packEms]; rfl)
  | displayOn => exact host rfl (dctl_eq_transmission s rfl)
  | displayOff => exact host rfl (dctl_eq_transmission s rfl)
  | cursorOn => exact host rfl (dctl_eq_transmission s rfl)
  | cursorOff => exact host rfl (dctl_eq_transmission s rfl)
  | blinkOn => exact host rfl (dctl_eq_transmission s rfl)
  | blinkOff => exact host rfl (dctl_eq_transmission s rfl)
  | setDdramAddr addr => exact host rfl (opSetDdramAddr_eq_parts addr s)
  | print bytes => exact host rfl (printLoop_eq_parts bytes s)
  | functionSet => exact host rfl (opFunctionSet_eq_parts s)
  | cfgw idx val => exact host rfl (by rw [opCfgw_eq_parts]; simp [Spec.operationEvents])
  | regrd idx => exact execRegrd_eq_commit idx s
  | busClearDisplay => exact bus rfl rfl rfl rfl
  | busReturnHome => exact bus rfl rfl rfl rfl
  | busEntryModeSet j sh => exact bus rfl rfl rfl rfl
  | busDisplayControl d c b => exact bus rfl rfl rfl rfl
  | busFunctionSet l n f a => exact bus rfl rfl rfl rfl
  | busSetDdramAddress a => exact bus rfl rfl rfl rfl
  | busDataWrite d => exact bus rfl rfl rfl rfl

/-! ## The frame -/

section Frame

variable {s t : State} (h : SameButRegs s t)
include h

theorem SameButRegs.pins_eq : t.pins = s.pins := by rw [h]
theorem SameButRegs.busy_eq : t.busy = s.busy := by rw [h]
theorem SameButRegs.bind_eq : t.bind = s.bind := by rw [h]
theorem SameButRegs.rst_eq : t.rst = s.rst := by rw [h]
theorem SameButRegs.requests_eq : t.requests = s.requests := by rw [h]
theorem SameButRegs.accepted_eq : t.accepted = s.accepted := by rw [h]
theorem SameButRegs.txByte_eq : t.txByte = s.txByte := by rw [h]
theorem SameButRegs.rp_eq : t.rp = s.rp := by rw [h]
theorem SameButRegs.events_eq : t.events = s.events := by rw [h]
theorem SameButRegs.responses_eq : t.responses = s.responses := by rw [h]

end Frame

theorem sameButRegs_writeReg {r : Reg} {v : Byte} {s t : State} (h : writeReg r v s = some t) : SameButRegs s t := by
  cases r <;> cases h <;> rfl

/-- An instruction changes no field but registers before it emits and answers. -/
theorem sameButRegs_regsAfter (i : Instr) (s : State) : SameButRegs s (regsAfter i s) := by
  cases i with
  | init => simp only [regsAfter]; split <;> rfl
  | functionSet => simp only [regsAfter]; split <;> rfl
  | cfgw idx val =>
    simp only [regsAfter]
    rcases h : (regAt idx).bind (writeReg · val s) with _ | t
    · rfl
    · obtain ⟨r, -, hr⟩ := Option.bind_eq_some_iff.1 h
      exact sameButRegs_writeReg hr
  | _ => rfl

section StateAfter

variable (i : Instr) (s : State)

@[simp] theorem stateAfter_pins : (stateAfter i s).pins = drivenPins s.pins (Spec.operationEvents i s) := by
  simp [stateAfter, conclude, (sameButRegs_regsAfter i s).pins_eq]

@[simp] theorem stateAfter_busy : (stateAfter i s).busy = (s.busy && (answer i s).isNone) := by
  simp [stateAfter, conclude, emitAll, (sameButRegs_regsAfter i s).busy_eq]

@[simp] theorem stateAfter_bind : (stateAfter i s).bind = s.bind := (sameButRegs_regsAfter i s).bind_eq
@[simp] theorem stateAfter_rst : (stateAfter i s).rst = s.rst := (sameButRegs_regsAfter i s).rst_eq
@[simp] theorem stateAfter_requests : (stateAfter i s).requests = s.requests := (sameButRegs_regsAfter i s).requests_eq
@[simp] theorem stateAfter_accepted : (stateAfter i s).accepted = s.accepted := (sameButRegs_regsAfter i s).accepted_eq
@[simp] theorem stateAfter_txByte : (stateAfter i s).txByte = s.txByte := (sameButRegs_regsAfter i s).txByte_eq
@[simp] theorem stateAfter_rp : (stateAfter i s).rp = s.rp := (sameButRegs_regsAfter i s).rp_eq

@[simp] theorem stateAfter_events : (stateAfter i s).events = s.events ++ Spec.operationEvents i s := by
  simp [stateAfter, conclude, (sameButRegs_regsAfter i s).events_eq]

@[simp] theorem stateAfter_responses : (stateAfter i s).responses = s.responses ++ (answer i s).toList := by
  simp [stateAfter, conclude, emitAll, (sameButRegs_regsAfter i s).responses_eq]

@[simp] theorem stateAfter_ems : (stateAfter i s).ems = (regsAfter i s).ems := rfl
@[simp] theorem stateAfter_dcs : (stateAfter i s).dcs = (regsAfter i s).dcs := rfl
@[simp] theorem stateAfter_fss : (stateAfter i s).fss = (regsAfter i s).fss := rfl

@[simp] theorem readReg_stateAfter (r : Reg) : readReg r (stateAfter i s) = readReg r (regsAfter i s) := by
  cases r <;> rfl

end StateAfter

/-- When an instruction answers a next state, and which. -/
theorem exec_eq_next_iff {i : Instr} {s t : State} :
    exec i s = .next t ↔ Spec.present s.bind (Spec.operationEvents i s) = true ∧ t = stateAfter i s := by
  rw [exec_eq_commit, commit_eq_next (stateAfter_events i s), allPresent_eq_present]

theorem answer_isSome {i : Instr} (h : i.isHost = true) (s : State) : ∃ r, answer i s = some r := by
  cases i with
  | busClearDisplay | busReturnHome | busEntryModeSet | busDisplayControl | busFunctionSet | busSetDdramAddress
  | busDataWrite => cases h
  | _ => exact ⟨_, rfl⟩

/-! ## The registers an instruction writes -/

/-- A register outside `writes` keeps its value (10_state.md R29). -/
theorem readReg_regsAfter_of_not_mem_writes {i : Instr} {s : State} {r : Reg} (h : r ∉ writes i s) :
    readReg r (regsAfter i s) = readReg r s := by
  cases i with
  | init =>
    simp only [writes, regsAfter] at h ⊢
    split <;> cases r <;> simp_all [readReg]
  | functionSet =>
    simp only [writes, regsAfter] at h ⊢
    split <;> cases r <;> simp_all [readReg]
  | cfgw idx val =>
    simp only [writes, regsAfter] at h ⊢
    rcases hidx : regAt idx with _ | q
    · rfl
    · cases q <;> cases r <;> simp_all [writeReg, readReg]
  | entryModeSet | displayOn | displayOff | cursorOn | cursorOff | blinkOn | blinkOff =>
    cases r <;> simp_all [writes, regsAfter, readReg]
  | _ => rfl

theorem dcs_eq_of_readReg_eq {s t : State} (h : readReg .dcs s = readReg .dcs t) : s.dcs = t.dcs := by
  have hinj : ∀ a b : BitVec 3, a.setWidth 8 = b.setWidth 8 → a = b := by decide
  exact hinj _ _ h

theorem configuration_congr {s t : State} (hlines : s.cfgLines = t.cfgLines) (hfont : s.cfgFont = t.cfgFont)
    (hbus : s.cfgBus = t.cfgBus) (halpha : s.cfgAlpha = t.cfgAlpha) :
    configOk s = configOk t ∧ fssOf s = fssOf t ∧ Spec.fssNumber s = Spec.fssNumber t := by
  simp only [configOk, linesOk, fssOf, Spec.fssNumber, hlines, hfont, hbus, halpha, and_self]

/-- What an instruction does depends only on the registers it reads (`Safety.reads` lists enough; 10_state.md R36). -/
theorem congr_of_agree_on_reads {i : Instr} {s t : State} (h : ∀ r ∈ reads i, readReg r s = readReg r t) :
    Spec.operationEvents i s = Spec.operationEvents i t ∧ answer i s = answer i t ∧ writes i s = writes i t ∧
      ∀ r ∈ writes i s, readReg r (regsAfter i s) = readReg r (regsAfter i t) := by
  cases i with
  | init =>
    simp only [reads, List.forall_mem_cons, readReg] at h
    obtain ⟨hbind, hlines, hfont, hbus, halpha, -⟩ := h
    obtain ⟨hc, hf, hn⟩ := configuration_congr hlines hfont hbus halpha
    have hr : initReady s = initReady t := by simp only [initReady, linesOk, hlines, hbind]
    simp only [Spec.operationEvents, answer, writes, regsAfter, legalConfig_eq_configOk, *]
    refine ⟨trivial, trivial, trivial, fun r hr => ?_⟩
    split at hr <;> simp_all [readReg]
  | functionSet =>
    simp only [reads, List.forall_mem_cons, readReg] at h
    obtain ⟨hlines, hfont, hbus, halpha, -⟩ := h
    obtain ⟨hc, hf, hn⟩ := configuration_congr hlines hfont hbus halpha
    simp only [Spec.operationEvents, answer, writes, regsAfter, legalConfig_eq_configOk, *]
    refine ⟨trivial, trivial, trivial, fun r hr => ?_⟩
    split at hr <;> simp_all [readReg]
  | regrd idx =>
    simp only [reads] at h
    cases hidx : regAt idx <;> simp_all [Spec.operationEvents, answer, writes]
  | cfgw idx val =>
    rcases hidx : regAt idx with _ | q
    · simp [Spec.operationEvents, answer, writes, hidx]
    · cases q <;> simp [Spec.operationEvents, answer, writes, regsAfter, writeReg, readReg, hidx, Option.filter]
  | print bytes =>
    cases bytes with
    | nil => simp [Spec.operationEvents, Spec.dataTransmissions, answer, writes]
    | cons b bs =>
      have hbus : s.cfgBus = t.cfgBus := by simpa [reads, readReg] using h
      simp [Spec.operationEvents, answer, writes, hbus]
  | setDdramAddr addr =>
    by_cases ha : 0x7F < addr.toNat
    · simp [Spec.operationEvents, answer, writes, ddramMax_lt_iff, ha]
    · have hbus : s.cfgBus = t.cfgBus := by simpa [reads, readReg, ddramMax_lt_iff, ha] using h
      simp [Spec.operationEvents, answer, writes, hbus]
  | displayOn | displayOff | cursorOn | cursorOff | blinkOn | blinkOff =>
    simp only [reads, List.forall_mem_cons, readReg] at h
    obtain ⟨hdcs, hbus, -⟩ := h
    have hdcs : s.dcs = t.dcs := dcs_eq_of_readReg_eq hdcs
    simp [Spec.operationEvents, answer, writes, regsAfter, readReg, *]
  | _ =>
    simp only [reads, List.forall_mem_cons, readReg] at h
    obtain ⟨hbus, -⟩ := h
    simp [Spec.operationEvents, answer, writes, regsAfter, readReg, *]

/-! ## Refusals -/

/-- The primitive a refusal names is missing (93_implementation_defined.md U2, log 4). -/
theorem bindBit_of_missingPrimitive_eq_some {bind : Byte} {es : List Event} {p : Primitive}
    (h : missingPrimitive bind es = some p) : bind.getLsbD (bindBit p) = false := by
  induction es with
  | nil => cases h
  | cons e es ih =>
    rw [missingPrimitive] at h
    split at h
    · exact ih h
    · next hbit =>
      cases h
      simpa using hbit

/-- When an instruction is refused: one of its events calls a missing primitive, and the refusal names one. -/
theorem exec_eq_refused_of_not_present {i : Instr} {s : State}
    (h : Spec.present s.bind (Spec.operationEvents i s) = false) :
    ∃ p, exec i s = .refused (.primitiveMissing p) ∧ s.bind.getLsbD (bindBit p) = false := by
  rw [exec_eq_commit, commit, stateAfter_events, List.drop_left]
  rcases hm : missingPrimitive s.bind (Spec.operationEvents i s) with _ | p
  · rw [missingPrimitive_eq_none, allPresent_eq_present, h] at hm
    cases hm
  · exact ⟨p, rfl, bindBit_of_missingPrimitive_eq_some hm⟩

theorem present_of_complete {s : State} (h : s.bind = 0xFF#8) (es : List Event) :
    Spec.present s.bind es = true := by
  rw [h, ← allPresent_eq_present, allPresent_of_complete]

/-- INIT checks `BIND` itself, CFGW and REGRD emit nothing (40_init.md R75, 46_register_access.md R109, R110). -/
theorem present_operationEvents_init (s : State) : Spec.present s.bind (Spec.operationEvents .init s) = true := by
  by_cases hbind : s.bind = 0xFF#8
  · exact present_of_complete hbind _
  · simp [Spec.operationEvents, hbind, Spec.present]

end Sys2Proof.Machine

namespace Sys2Proof

/-! ## What decoding leaves of the stream is its end (30_encoding.md R71) -/

section Suffix

variable {w : Word} {ws rest : List Word} {i j : Instr}

theorem suffix_of_decodePlain (h : decodePlain j w ws = .ok (i, rest)) : rest <:+ ws := by
  unfold decodePlain at h
  split at h
  · cases h
  · split at h <;> cases h
    exact List.suffix_refl _

theorem suffix_of_decodeEntryModeSet (h : decodeEntryModeSet w ws = .ok (i, rest)) : rest <:+ ws := by
  unfold decodeEntryModeSet at h
  split at h
  · cases h
  · split at h <;> cases h
    exact List.suffix_refl _

theorem suffix_of_decodeSetDdramAddr (h : decodeSetDdramAddr w ws = .ok (i, rest)) : rest <:+ ws := by
  unfold decodeSetDdramAddr at h
  split at h <;> cases h
  exact List.suffix_refl _

theorem suffix_of_decodePrint (h : decodePrint w ws = .ok (i, rest)) : rest <:+ ws := by
  unfold decodePrint at h
  split at h
  · cases h
  · dsimp only at h
    split at h <;> cases h
    exact List.drop_suffix _ _

theorem suffix_of_decodeRegrd (h : decodeRegrd w ws = .ok (i, rest)) : rest <:+ ws := by
  unfold decodeRegrd at h
  split at h <;> cases h
  exact List.suffix_refl _

theorem suffix_of_decodeWord (h : decodeWord w ws = .ok (i, rest)) : rest <:+ ws := by
  unfold decodeWord at h
  split at h
  case h_4 => exact suffix_of_decodeEntryModeSet h
  case h_11 => exact suffix_of_decodeSetDdramAddr h
  case h_12 => exact suffix_of_decodePrint h
  case h_14 => cases h; exact List.suffix_refl _
  case h_15 => exact suffix_of_decodeRegrd h
  case h_16 => cases h
  all_goals exact suffix_of_decodePlain h

theorem suffix_of_decode (h : decode ws = .ok (i, rest)) : rest <:+ ws := by
  cases ws with
  | nil => cases h
  | cons w ws => exact (suffix_of_decodeWord h).trans (List.suffix_cons w ws)

end Suffix

end Sys2Proof

namespace Sys2Proof.Machine

theorem eq_emitAll_of_transmit_eq_next {b : BusByte} {s t : State} (h : transmit b s = .next t) :
    t = emitAll (txEvents s.cfgBus (busMode b) (busData b)) s := by
  rw [transmit, tx_eq] at h
  exact ((commit_eq_next rfl).1 h).2

/-! ## What the controller receives over an operation -/

theorem transfers_append (p : Pins) (as bs : List Event) :
    transfers p (as ++ bs) = transfers p as ++ transfers (drivenPins p as) bs := by
  induction as generalizing p with
  | nil => rfl
  | cons e es ih =>
    simp only [List.cons_append, transfers, ih]
    split <;> rfl

/-- A delay moves no wire. -/
theorem transfers_delay (p : Pins) (d : Nat) (es : List Event) :
    transfers p (.delay d :: es) = transfers p es := rfl

/-- Two nibbles, high first, are the byte (20_memory.md R42, R44). -/
theorem wireNibble_append (b : Byte) : wireNibble (b >>> 4) ++ wireNibble b = b := by
  revert b; decide

theorem busBytes_transfers_transmission {bus : Byte} (h : Spec.legalBus bus = true) (p : Pins) (r : Bool) (b : Byte)
    (es : List Event) : busBytes bus (transfers p (Spec.transmission bus r b ++ es)) =
      (BitVec.ofBool r ++ b) :: busBytes bus (transfers (drivenPins p (Spec.transmission bus r b)) es) := by
  rw [transfers_append]
  simp only [Spec.legalBus, Bool.or_eq_true, decide_eq_true_eq] at h
  rcases h with rfl | rfl
  · have hbyte : BitVec.ofBool r ++ wireNibble (b >>> 4) ++ wireNibble b = (BitVec.ofBool r ++ b : BusByte) := by
      rw [BitVec.append_assoc, wireNibble_append]
      rfl
    exact congrArg (· :: _) hbyte
  · rfl

theorem receivedBytes_of_exec {i : Instr} {s t : State} (h : exec i s = .next t) :
    receivedBytes s t = busBytes s.cfgBus (transfers s.pins (Spec.operationEvents i s)) := by
  obtain ⟨-, rfl⟩ := exec_eq_next_iff.1 h
  simp [receivedBytes]

theorem busBytes_transfers_transmission_only {bus : Byte} (h : Spec.legalBus bus = true) (p : Pins) (r : Bool)
    (b : Byte) : busBytes bus (transfers p (Spec.transmission bus r b)) = [BitVec.ofBool r ++ b] := by
  have hnil : ∀ q, busBytes bus (transfers q []) = [] := by
    intro q
    simp [transfers, busBytes, pairNibbles]
  simpa [hnil] using busBytes_transfers_transmission h p r b []

theorem operationEvents_of_isDisplayOp {i : Instr} (h : Spec.isDisplayOp i = true) (s : State) :
    Spec.operationEvents i s =
      Spec.transmission s.cfgBus false (BitVec.ofNat 8 (0x08 + (regsAfter i s).dcs.toNat)) := by
  cases i with
  | displayOn | displayOff | cursorOn | cursorOff | blinkOn | blinkOff => rfl
  | _ => simp [Spec.isDisplayOp, Spec.displayOps] at h

/-- INIT sends four bytes (40_init.md R76). -/
theorem busBytes_transfers_initEvents {bus : Byte} (h : Spec.legalBus bus = true) (p : Pins) (fs : Byte) :
    busBytes bus (transfers p (Spec.initEvents bus fs)) =
      [0#1 ++ fs, 0#1 ++ 0x0C#8, 0#1 ++ 0x01#8, 0#1 ++ 0x06#8] := by
  rw [specInitEvents_eq fs h]
  simp [transfers_delay, busBytes_transfers_transmission h, busBytes_transfers_transmission_only h]

end Sys2Proof.Machine

namespace Sys2Proof.Proofs

open Sys2Proof.Machine Sys2Proof.Safety

/-- Settles O1, by evaluating the reset state. -/
theorem resetLeavesBlockIdle : Obligations.ResetLeavesBlockIdle := by
  unfold Obligations.ResetLeavesBlockIdle
  decide

/-- Settles O58: an instruction's events, answer and written registers depend only on the registers it reads, and it
leaves the others as they are. -/
theorem unwrittenRegistersCannotShow : Obligations.UnwrittenRegistersCannotShow := by
  unfold Obligations.UnwrittenRegistersCannotShow
  intro known i s t s' hsafe hagree hexec
  obtain ⟨hknown, hpins, hbusy, hbind, hrst, hreq, hacc, htx, hrp, hev, hresp⟩ := hagree
  have hreads : ∀ r ∈ reads i, readReg r s = readReg r t := by
    intro r hr
    simp only [safeRequest, List.all_eq_true, List.contains_iff_mem] at hsafe
    exact hknown r (hsafe r hr)
  obtain ⟨hevents, hanswer, hwrites, hwritten⟩ := congr_of_agree_on_reads hreads
  obtain ⟨hpresent, rfl⟩ := exec_eq_next_iff.1 hexec
  refine ⟨stateAfter i t, exec_eq_next_iff.2 ⟨by rwa [← hbind, ← hevents], rfl⟩, ?_, by simp [*]⟩
  intro r hr
  simp only [readReg_stateAfter]
  by_cases hw : r ∈ writes i s
  · exact hwritten r hw
  · have hk : r ∈ known := by simpa [hw] using hr
    rw [readReg_regsAfter_of_not_mem_writes hw, readReg_regsAfter_of_not_mem_writes (hwrites ▸ hw), hknown r hk]

/-- Settles O11: the words a request takes are those that decoding drops from the front of the stream. -/
theorem requestPointerCountsWords : Obligations.RequestPointerCountsWords := by
  unfold Obligations.RequestPointerCountsWords
  intro s t hidle hstep
  obtain ⟨hrst, htx, hacc⟩ := hidle
  have hport : portWords s = s.requests := by simp [portWords, hacc]
  rcases step_cases hstep with ⟨hr, -⟩ | ⟨-, b, hb, -⟩ | ⟨-, -, hcases⟩
  · simp [hrst] at hr
  · simp [htx] at hb
  rw [hport] at hcases
  rcases hcases with ⟨i, rest, hdec, hexec⟩ | ⟨-, rfl⟩ | ⟨n, -, rfl⟩ | rfl
  · obtain ⟨-, rfl⟩ := exec_eq_next_iff.1 hexec
    have hlen := (suffix_of_decode hdec).length_le
    simp only [stateAfter_rp, stateAfter_requests, accept_rp, accept_requests]
    omega
  · simp
  · simp
  · simp [rejectWord, raise, hport]
    omega

/-- Settles O12, by the cases of a step. -/
theorem stepKeepsInputsAndHistory : Obligations.StepKeepsInputsAndHistory := by
  unfold Obligations.StepKeepsInputsAndHistory
  intro s t hstep
  rcases step_cases hstep with ⟨-, rfl⟩ | ⟨-, b, -, ⟨i, -, hexec⟩ | ⟨-, htransmit⟩⟩ |
    ⟨-, -, ⟨i, rest, -, hexec⟩ | ⟨-, rfl⟩ | ⟨n, -, rfl⟩ | rfl⟩
  · simp [holdReset]
  · obtain ⟨-, rfl⟩ := exec_eq_next_iff.1 hexec
    simp
  · obtain rfl := eq_emitAll_of_transmit_eq_next htransmit
    simp [emitAll]
  · obtain ⟨-, rfl⟩ := exec_eq_next_iff.1 hexec
    simp
  · simp
  · simp
  · simp [rejectWord, raise]

/-- Settles O39: a complete interface has the primitive of every event. -/
theorem completeInterfaceRefusesNothing : Obligations.CompleteInterfaceRefusesNothing := by
  unfold Obligations.CompleteInterfaceRefusesNothing
  intro i s hbind
  exact ⟨stateAfter i s, exec_eq_next_iff.2 ⟨present_of_complete hbind _, rfl⟩⟩

/-- Settles O40, by the two answers of `commit` on the instruction's events. -/
theorem eventsAreThoseOrRefused : Obligations.EventsAreThoseOrRefused := by
  unfold Obligations.EventsAreThoseOrRefused
  constructor
  · intro i s
    split
    · next hp => exact ⟨stateAfter i s, exec_eq_next_iff.2 ⟨hp, rfl⟩, stateAfter_events i s⟩
    · next hp => exact exec_eq_refused_of_not_present (by simpa using hp)
  · intro s idx val i hi
    simp only [List.mem_cons, List.not_mem_nil, or_false] at hi
    rcases hi with rfl | rfl | rfl
    · exact present_operationEvents_init s
    · rfl
    · rfl

/-- Settles O41, by the fields of `stateAfter`. -/
theorem requestFrame : Obligations.RequestFrame := by
  unfold Obligations.RequestFrame
  intro i s t hhost hexec
  obtain ⟨-, rfl⟩ := exec_eq_next_iff.1 hexec
  obtain ⟨a, ha⟩ := answer_isSome hhost s
  refine ⟨fun r hr => ?_, by simp [ha]⟩
  rw [readReg_stateAfter, readReg_regsAfter_of_not_mem_writes hr]

/-- Settles O53: the byte of each transmission is read back, and the cache written before it packs the same bits. -/
theorem cacheAgreesWithByteReceived : Obligations.CacheAgreesWithByteReceived := by
  unfold Obligations.CacheAgreesWithByteReceived
  intro i s t hbus hexec
  rw [receivedBytes_of_exec hexec]
  obtain ⟨-, rfl⟩ := exec_eq_next_iff.1 hexec
  refine ⟨fun hdisp => ?_, ?_, ?_, ?_⟩
  · rw [operationEvents_of_isDisplayOp hdisp, busBytes_transfers_transmission_only hbus]
    rfl
  · rintro ⟨id, sh, rfl⟩
    rw [Spec.operationEvents, busBytes_transfers_transmission_only hbus, stateAfter_ems, regsAfter,
      packEms_toNat, ← Nat.add_assoc]
    rfl
  · rintro ⟨rfl, hconf⟩
    have hc : configOk s = true := by rwa [← legalConfig_eq_configOk]
    simp only [Spec.operationEvents, hconf, if_true, busBytes_transfers_transmission_only hbus, stateAfter_fss,
      regsAfter, hc, fssOf_toNat hc]
    rfl
  · rintro ⟨rfl, hbind, hconf⟩
    have hc : configOk s = true := by rwa [← legalConfig_eq_configOk]
    have hr : initReady s = true := (initReady_iff s).2 ⟨hbind, legalLines_of_configOk hc⟩
    have hevents : Spec.operationEvents .init s =
        Spec.initEvents s.cfgBus (BitVec.ofNat 8 (0x20 + Spec.fssNumber s)) := by
      simp [Spec.operationEvents, hbind, hconf, legalLines_of_configOk hc]
    rw [hevents, busBytes_transfers_initEvents hbus]
    simp [regsAfter, hr, hc, fssOf_toNat hc, dcsAfterInit, packEms_toNat]

end Sys2Proof.Proofs

/-! What crosses the bus (20_memory.md). -/

namespace Sys2Proof.Machine

theorem rsLevel_eq_decide (m : TxMode) : rsLevel m = decide (m = .dat) := by
  cases m <;> rfl

/-- Over a width that is not legal the controller reads nothing (20_memory.md R44). -/
theorem busBytes_of_not_legalBus {bus : Byte} (h : Spec.legalBus bus = false) (ts : List Transfer) :
    busBytes bus ts = [] := by
  simp only [Spec.legalBus, Bool.or_eq_false_iff, decide_eq_false_iff_not] at h
  simp [busBytes, Params.bus8, Params.bus4, h]

theorem receivedBytes_tx (m : TxMode) (b : Byte) (s : State) :
    receivedBytes s (tx m b s).2 = busBytes s.cfgBus (transfers s.pins (Spec.transmission s.cfgBus (rsLevel m) b)) := by
  simp [receivedBytes, tx_eq, txEvents_eq_transmission]

/-- What an instruction emits depends on the registers alone. -/
theorem operationEvents_congr {s t : State} (h : ∀ r, readReg r s = readReg r t) (i : Instr) :
    Spec.operationEvents i s = Spec.operationEvents i t :=
  (congr_of_agree_on_reads fun r _ => h r).1

theorem regsAfter_cfgw_cfgBus (v : Byte) (s : State) : regsAfter (.cfgw 2#4 v) s = { s with cfgBus := v } := rfl

/-- Every list of events an instruction emits is whole pulses without a read of the bus. -/
theorem busList_newEvents {i : Instr} {s t : State} (h : exec i s = .next t) : busList (Spec.newEvents s t) := by
  obtain ⟨es, s', hes, -, hregs, hend⟩ := exec_cases h
  have hevents : t.events = s.events ++ es := by
    rcases hend with ⟨-, st, v, rfl⟩ | ⟨-, rfl⟩ <;> simp [hregs.events_eq]
  rwa [Spec.newEvents, hevents, List.drop_left]

end Sys2Proof.Machine

namespace Sys2Proof.Proofs

open Sys2Proof.Machine

/-- Settles O20: over a legal width the wires carry the byte back, over any other no byte is read. -/
theorem receivedByteIsByteSent : Obligations.ReceivedByteIsByteSent := by
  unfold Obligations.ReceivedByteIsByteSent
  intro m b s
  rw [receivedBytes_tx]
  split
  · next hbus => rw [busBytes_transfers_transmission_only hbus, rsLevel_eq_decide]
  · next hbus => exact busBytes_of_not_legalBus (by simpa using hbus) _

/-- Settles O37: the CFGW emits nothing and leaves the registers of `s` but for `CFG_BUS`, and the next instruction's
events depend on the registers alone. -/
theorem busWidthTakesEffectAtNextByte : Obligations.BusWidthTakesEffectAtNextByte := by
  unfold Obligations.BusWidthTakesEffectAtNextByte
  intro v i s t u hcfgw hexec
  obtain ⟨-, rfl⟩ := exec_eq_next_iff.1 hcfgw
  obtain ⟨-, rfl⟩ := exec_eq_next_iff.1 hexec
  have hregs : ∀ r, readReg r (stateAfter (.cfgw 2#4 v) s) = readReg r { s with cfgBus := v } := by
    intro r
    rw [readReg_stateAfter, regsAfter_cfgw_cfgBus]
  have hcfgwEvents : Spec.operationEvents (.cfgw 2#4 v) s = [] := rfl
  rw [stateAfter_events, stateAfter_events, hcfgwEvents, List.append_nil, operationEvents_congr hregs]

/-- Settles O51: no event list of an instruction holds a read of the bus. -/
theorem busIsNeverRead : Obligations.BusIsNeverRead := by
  unfold Obligations.BusIsNeverRead
  intro i s t hexec
  obtain ⟨-, hread⟩ := busList_newEvents hexec
  exact hread

end Sys2Proof.Proofs

/-! The decoder of request words: a header word by its fields, and the three ways decoding can end (30_encoding.md R54,
R55, R68, R70). -/

namespace Sys2Proof

open Sys2Proof.Machine

/-! ## The fields of a header word (30_encoding.md R54) -/

@[simp] theorem opField_hword (op idx : BitVec 4) (arg : Byte) : opField (hword op idx arg) = op :=
  (BitVec.extractLsb'_append_eq_of_le (xhi := op ++ idx) (xlo := arg) (by decide)).trans
    BitVec.extractLsb'_append_eq_left

@[simp] theorem idxField_hword (op idx : BitVec 4) (arg : Byte) : idxField (hword op idx arg) = idx :=
  (BitVec.extractLsb'_append_eq_of_le (xhi := op ++ idx) (xlo := arg) (by decide)).trans
    BitVec.extractLsb'_append_eq_right

@[simp] theorem argField_hword (op idx : BitVec 4) (arg : Byte) : argField (hword op idx arg) = arg :=
  BitVec.extractLsb'_append_eq_right

@[simp] theorem hword_fields (w : Word) : hword (opField w) (idxField w) (argField w) = w := by
  have hopIdx : opField w ++ idxField w = w.extractLsb' 8 8 :=
    BitVec.extractLsb'_append_extractLsb'_eq_extractLsb' rfl
  rw [hword, hopIdx]
  exact BitVec.extractLsb'_append_extractLsb' (len := 8) (w := 8)

/-- Two words are equal when their fields are. -/
theorem word_eq_iff_fields (v w : Word) :
    v = w ↔ opField v = opField w ∧ idxField v = idxField w ∧ argField v = argField w := by
  refine ⟨by rintro rfl; simp, fun ⟨hop, hidx, harg⟩ => ?_⟩
  rw [← hword_fields v, ← hword_fields w, hop, hidx, harg]

theorem eq_hword_of_fields {w : Word} {op idx : BitVec 4} {arg : Byte} (hop : opField w = op)
    (hidx : idxField w = idx) (harg : argField w = arg) : w = hword op idx arg := by
  rw [← hop, ← hidx, ← harg, hword_fields]

/-- A word matches a row when each field does. -/
theorem and_eq_iff_fields (w m v : Word) : w &&& m = v ↔
    opField w &&& opField m = opField v ∧ idxField w &&& idxField m = idxField v ∧
      argField w &&& argField m = argField v := by
  simp only [word_eq_iff_fields, opField, idxField, argField, BitVec.extractLsb'_and]

/-! ## Legal header words -/

/-- A mask of ones keeps a field. -/
theorem nibble_and_ones (x : BitVec 4) : x &&& 15#4 = x := BitVec.and_allOnes

/-- The rows of 30_encoding.md R55 by operation code: what `idx` and `arg` have to be. -/
def legalFields (op : Nat) (idx : BitVec 4) (arg : Byte) : Bool :=
  match op with
  | 0x3 => decide (idx = 0#4) && decide (arg.extractLsb' 2 6 = 0#6)
  | 0xA | 0xB => decide (idx = 0#4)
  | 0xD => true
  | 0xE => decide (arg = 0#8)
  | 0xF => false
  | _ => decide (idx = 0#4) && decide (arg = 0#8)

theorem matchesRow_eq_legalFields (w : Word) :
    Spec.matchesRow w = legalFields (opField w).toNat (idxField w) (argField w) := by
  have harg : ∀ arg : Byte, arg &&& 255#8 = arg := fun _ => BitVec.and_allOnes
  have hems : ∀ arg : Byte, arg &&& 252#8 = 0#8 ↔ arg.extractLsb' 2 6 = 0#6 := by decide
  simp only [Spec.matchesRow, Spec.rows, List.any_cons, List.any_nil, and_eq_iff_fields]
  generalize opField w = op, idxField w = idx, argField w = arg
  simp only [opField, BitVec.reduceExtractLsb', nibble_and_ones, BitVec.extractLsb'_zero, idxField, argField, harg,
    Bool.decide_and, hems, BitVec.and_zero, and_true, and_self, true_and, Bool.or_false]
  rcases op with ⟨⟨n, hn⟩⟩
  interval_cases n <;> simp [legalFields]

/-! ## The three ways decoding a header word can end -/

/-- The reasons that make a word illegal (30_encoding.md R68). -/
def Reject.isIllegalWord : Reject → Bool
  | .reservedOp | .idxNotZero | .argNotZero => true
  | .noWord | .payloadMissing _ | .notEmitted => false

/-- What decoding answers for a header word `w` with the words `ws` after it: an instruction whose encoding begins with
`w`, with the stream after its payload; or so many payload words that are missing; or that `w` is illegal. -/
def HeaderCases (w : Word) (ws : List Word) (d : Decoded (Instr × List Word)) : Prop :=
  (Spec.matchesRow w = true ∧ ∃ i, i.isHost = true ∧ WellFormed i ∧ (encode i).head? = some w ∧
    d = .ok (i, ws.drop (payloadLength w))) ∨
  (Spec.matchesRow w = true ∧ ws.length < payloadLength w ∧
    d = .error (.payloadMissing (payloadLength w - ws.length))) ∨
  (Spec.matchesRow w = false ∧ ∃ r, r.isIllegalWord = true ∧ d = .error r)

theorem payloadLength_of_op_ne {w : Word} (h : (opField w).toNat ≠ 0xB) : payloadLength w = 0 := by
  have hop : opField w ≠ 0xB#4 := fun hop => h (by rw [hop]; rfl)
  simp [payloadLength, hop]

/-- A PRINT header (30_encoding.md R55). -/
theorem decode_print (n : Byte) (ws : List Word) :
    decode (hword 0xB#4 0#4 n :: ws) =
      if ws.length < n.toNat then .error (.payloadMissing (n.toNat - ws.length))
      else .ok (.print ((ws.take n.toNat).map payloadByte), ws.drop n.toNat) := by
  simp [decode, decodeWord, decodePrint]

section Cases

variable {w : Word} {ws : List Word}

/-- A legal word of one word. -/
theorem headerCases_ok {i : Instr} (hi : i.isHost = true) (hwf : WellFormed i) (henc : encode i = [w])
    (hlegal : Spec.matchesRow w = true) (hlen : payloadLength w = 0) : HeaderCases w ws (.ok (i, ws)) :=
  .inl ⟨hlegal, i, hi, hwf, by rw [henc]; rfl, by rw [hlen, List.drop_zero]⟩

theorem headerCases_illegal {r : Reject} (hr : r.isIllegalWord = true) (hlegal : Spec.matchesRow w = false) :
    HeaderCases w ws (.error r) :=
  .inr (.inr ⟨hlegal, r, hr, rfl⟩)

/-- A must-be-zero check: the word is illegal, or what the field holds is known. -/
theorem headerCases_guard {α : Type} [DecidableEq α] {a c : α} {r : Reject} {d : Decoded (Instr × List Word)}
    (hr : r.isIllegalWord = true) (hne : a ≠ c → Spec.matchesRow w = false) (heq : a = c → HeaderCases w ws d) :
    HeaderCases w ws (if a ≠ c then .error r else d) := by
  split
  · next h => exact headerCases_illegal hr (hne h)
  · next h => exact heq (not_not.1 h)

theorem headerCases_decodePlain {i : Instr} {op : BitVec 4} (hop : opField w = op) (hi : i.isHost = true)
    (hwf : WellFormed i) (henc : encode i = [hword op 0#4 0#8])
    (hrow : ∀ idx arg, legalFields op.toNat idx arg = (decide (idx = 0#4) && decide (arg = 0#8)))
    (hlen : op.toNat ≠ 0xB) : HeaderCases w ws (decodePlain i w ws) := by
  have hlegal := matchesRow_eq_legalFields w
  rw [hop, hrow] at hlegal
  refine headerCases_guard rfl (fun hidx => by simp [hlegal, hidx]) fun hidx => ?_
  refine headerCases_guard rfl (fun harg => by simp [hlegal, harg]) fun harg => ?_
  refine headerCases_ok hi hwf ?_ (by simp [hlegal, hidx, harg]) (payloadLength_of_op_ne (hop ▸ hlen))
  rw [henc, ← eq_hword_of_fields hop hidx harg]

theorem headerCases_decodeEntryModeSet (hop : opField w = 0x3#4) : HeaderCases w ws (decodeEntryModeSet w ws) := by
  have hbits : ∀ arg : Byte, arg.extractLsb' 2 6 = 0#6 → 0#6 ++ arg.extractLsb' 1 1 ++ arg.extractLsb' 0 1 = arg := by
    decide
  have hlegal : Spec.matchesRow w =
      (decide (idxField w = 0#4) && decide ((argField w).extractLsb' 2 6 = 0#6)) := by
    rw [matchesRow_eq_legalFields, hop]
    rfl
  refine headerCases_guard rfl (fun hidx => by simp [hlegal, hidx]) fun hidx => ?_
  refine headerCases_guard rfl (fun harg => by simp [hlegal, harg]) fun harg => ?_
  refine headerCases_ok rfl rfl ?_ (by simp [hlegal, hidx, harg]) (payloadLength_of_op_ne (by simp [hop]))
  rw [encode, hbits _ harg, ← eq_hword_of_fields hop hidx rfl]

theorem headerCases_decodeSetDdramAddr (hop : opField w = 0xA#4) : HeaderCases w ws (decodeSetDdramAddr w ws) := by
  have hlegal : Spec.matchesRow w = decide (idxField w = 0#4) := by
    rw [matchesRow_eq_legalFields, hop]
    rfl
  refine headerCases_guard rfl (fun hidx => by simp [hlegal, hidx]) fun hidx => ?_
  refine headerCases_ok rfl rfl ?_ (by simp [hlegal, hidx]) (payloadLength_of_op_ne (by simp [hop]))
  rw [encode, ← eq_hword_of_fields hop hidx rfl]

theorem headerCases_decodePrint (hop : opField w = 0xB#4) : HeaderCases w ws (decodePrint w ws) := by
  have hlegal : Spec.matchesRow w = decide (idxField w = 0#4) := by
    rw [matchesRow_eq_legalFields, hop]
    rfl
  refine headerCases_guard rfl (fun hidx => by simp [hlegal, hidx]) fun hidx => ?_
  have hlen : payloadLength w = (argField w).toNat := by simp [payloadLength, hop, hidx]
  have hrow : Spec.matchesRow w = true := by simp [hlegal, hidx]
  dsimp only
  rw [← hlen]
  split
  · next hmissing => exact .inr (.inl ⟨hrow, hmissing, rfl⟩)
  · next hthere =>
    have hbytes : ((ws.take (payloadLength w)).map payloadByte).length = (argField w).toNat := by
      simp only [List.length_map, List.length_take]
      omega
    have hmax : (argField w).toNat ≤ printMax := Nat.le_of_lt_succ (argField w).isLt
    refine .inl ⟨hrow, .print ((ws.take (payloadLength w)).map payloadByte), rfl, ?_, ?_, rfl⟩
    · exact decide_eq_true (hbytes ▸ hmax)
    · rw [encode, hbytes, BitVec.ofNat_toNat, BitVec.setWidth_eq, ← eq_hword_of_fields hop hidx rfl]
      rfl

theorem headerCases_decodeRegrd (hop : opField w = 0xE#4) : HeaderCases w ws (decodeRegrd w ws) := by
  have hlegal : Spec.matchesRow w = decide (argField w = 0#8) := by
    rw [matchesRow_eq_legalFields, hop]
    rfl
  refine headerCases_guard rfl (fun harg => by simp [hlegal, harg]) fun harg => ?_
  refine headerCases_ok rfl rfl ?_ (by simp [hlegal, harg]) (payloadLength_of_op_ne (by simp [hop]))
  rw [encode, ← eq_hword_of_fields hop rfl harg]

end Cases

/-- All that decoding a stream of at least one word can answer. -/
theorem decode_cases (w : Word) (ws : List Word) : HeaderCases w ws (decode (w :: ws)) := by
  have eqOp : ∀ {op : BitVec 4}, (opField w).toNat = op.toNat → opField w = op := BitVec.eq_of_toNat_eq
  rw [decode]
  unfold decodeWord
  split
  case h_1 h => exact headerCases_decodePlain (eqOp (op := 0x0#4) h) rfl rfl rfl (fun _ _ => rfl) (by decide)
  case h_2 h => exact headerCases_decodePlain (eqOp (op := 0x1#4) h) rfl rfl rfl (fun _ _ => rfl) (by decide)
  case h_3 h => exact headerCases_decodePlain (eqOp (op := 0x2#4) h) rfl rfl rfl (fun _ _ => rfl) (by decide)
  case h_4 h => exact headerCases_decodeEntryModeSet (eqOp h)
  case h_5 h => exact headerCases_decodePlain (eqOp (op := 0x4#4) h) rfl rfl rfl (fun _ _ => rfl) (by decide)
  case h_6 h => exact headerCases_decodePlain (eqOp (op := 0x5#4) h) rfl rfl rfl (fun _ _ => rfl) (by decide)
  case h_7 h => exact headerCases_decodePlain (eqOp (op := 0x6#4) h) rfl rfl rfl (fun _ _ => rfl) (by decide)
  case h_8 h => exact headerCases_decodePlain (eqOp (op := 0x7#4) h) rfl rfl rfl (fun _ _ => rfl) (by decide)
  case h_9 h => exact headerCases_decodePlain (eqOp (op := 0x8#4) h) rfl rfl rfl (fun _ _ => rfl) (by decide)
  case h_10 h => exact headerCases_decodePlain (eqOp (op := 0x9#4) h) rfl rfl rfl (fun _ _ => rfl) (by decide)
  case h_11 h => exact headerCases_decodeSetDdramAddr (eqOp h)
  case h_12 h => exact headerCases_decodePrint (eqOp h)
  case h_13 h => exact headerCases_decodePlain (eqOp (op := 0xC#4) h) rfl rfl rfl (fun _ _ => rfl) (by decide)
  case h_14 h =>
    have hop : opField w = 0xD#4 := eqOp h
    have hlegal : Spec.matchesRow w = true := by rw [matchesRow_eq_legalFields, h]; rfl
    refine headerCases_ok rfl rfl ?_ hlegal (payloadLength_of_op_ne (by simp [hop]))
    rw [encode, ← eq_hword_of_fields hop rfl rfl]
  case h_15 h => exact headerCases_decodeRegrd (eqOp h)
  case h_16 =>
    have hop : opField w = 0xF#4 := by
      have hlt := (opField w).isLt
      refine eqOp ?_
      rw [BitVec.toNat_ofNat]
      simp only [imp_false] at *
      omega
    exact headerCases_illegal rfl (by rw [matchesRow_eq_legalFields, hop]; rfl)

/-! ## PRINT, its header and its payload -/

theorem printHeader_eq (n : Byte) : 0xB000#16 ||| n.setWidth 16 = hword 0xB#4 0#4 n := by
  revert n; decide

theorem payloadByte_payloadWord (b : Byte) : payloadByte (payloadWord b) = b := by
  revert b; decide

/-- The next `n` words after a PRINT header are its payload (30_encoding.md R56). -/
theorem decode_print_append {n : Byte} {ps : List Word} (h : ps.length = n.toNat) (rest : List Word) :
    decode (hword 0xB#4 0#4 n :: (ps ++ rest)) = .ok (.print (ps.map payloadByte), rest) := by
  rw [decode_print, ← h]
  simp

/-- The match and mask columns of PRINT (30_encoding.md R55). -/
theorem and_eq_print_iff (w : Word) : w &&& 0xFF00#16 = 0xB000#16 ↔ opField w = 0xB#4 ∧ idxField w = 0#4 := by
  rw [and_eq_iff_fields]
  simp [opField, idxField, argField, nibble_and_ones]

theorem and_eq_print_iff_op (w : Word) : w &&& 0xF000#16 = 0xB000#16 ↔ opField w = 0xB#4 := by
  rw [and_eq_iff_fields]
  simp [opField, idxField, argField, nibble_and_ones]

theorem and_eq_zero_iff_idx (w : Word) : w &&& 0x0F00#16 = 0#16 ↔ idxField w = 0#4 := by
  rw [and_eq_iff_fields]
  simp [opField, idxField, argField, nibble_and_ones]

theorem argField_toNat (w : Word) : (argField w).toNat = (w &&& 0x00FF#16).toNat := by
  rw [argField, BitVec.extractLsb'_toNat, BitVec.toNat_and]
  exact (Nat.and_two_pow_sub_one_eq_mod w.toNat 8).symm

/-- The length of a payload by the match and mask columns (30_encoding.md R70). -/
theorem payloadLength_eq (w : Word) :
    payloadLength w = if w &&& 0xFF00#16 = 0xB000#16 then (w &&& 0x00FF#16).toNat else 0 := by
  simp only [payloadLength, and_eq_print_iff, argField_toNat]

end Sys2Proof

/-! The step by what the stream decodes to, and what every step keeps (30_encoding.md R53, R71). -/

namespace Sys2Proof.Machine

open Sys2Proof.Safety

section Step

variable {s : State} (hrst : s.rst = false) (htx : s.txByte = none)
include hrst htx

/-- A whole request is accepted and performed (30_encoding.md R53, R71). -/
theorem step_of_decode_ok {i : Instr} {rest : List Word} (h : decode (portWords s) = .ok (i, rest)) :
    step s = exec i (accept rest s) := by
  simp [step, stepRequest, hrst, htx, h]

/-- A PRINT waits for its payload (70_reset_and_hazards.md R146, log 6). -/
theorem step_of_payloadMissing {n : Nat} (h : decode (portWords s) = .error (.payloadMissing n)) :
    step s = .next (await s) := by
  simp [step, stepRequest, hrst, htx, h]

/-- An illegal word is rejected (30_encoding.md R68). -/
theorem step_of_isIllegalWord {r : Reject} (hr : r.isIllegalWord = true) (h : decode (portWords s) = .error r) :
    step s = .next (rejectWord s) := by
  cases r with
  | reservedOp | idxNotZero | argNotZero => simp [step, stepRequest, hrst, htx, h]
  | _ => cases hr

end Step

theorem portWords_of_accepted_nil {s : State} (h : s.accepted = []) : portWords s = s.requests := by
  rw [portWords, h, List.nil_append]

/-! ## What every step keeps -/

theorem drivenPins_append (p : Pins) (as bs : List Event) :
    drivenPins p (as ++ bs) = drivenPins (drivenPins p as) bs := List.foldl_append

theorem neverReads_iff (es : List Event) : neverReads es = true ↔ Event.rw true ∉ es := by
  simp [neverReads]

/-- An instruction adds whole pulses without a read of the bus, and drives the latches with what it adds. -/
theorem exec_events {i : Instr} {s t : State} (h : exec i s = .next t) :
    ∃ es, busList es ∧ t.events = s.events ++ es ∧ t.pins = drivenPins s.pins es := by
  have hlist := busList_newEvents h
  obtain ⟨-, rfl⟩ := exec_eq_next_iff.1 h
  rw [Spec.newEvents, stateAfter_events, List.drop_left] at hlist
  exact ⟨_, hlist, stateAfter_events i s, stateAfter_pins i s⟩

/-- Every step adds such a list of events, and drives the latches with it (44_transmit_strobe.md R99, 20_memory.md R41,
10_state.md R28). -/
theorem step_events {s t : State} (h : step s = .next t) :
    ∃ es, busList es ∧ t.events = s.events ++ es ∧ t.pins = drivenPins s.pins es := by
  have quiet : ∃ es, busList es ∧ s.events = s.events ++ es ∧ s.pins = drivenPins s.pins es :=
    ⟨[], busList_nil, (List.append_nil _).symm, rfl⟩
  rcases step_cases h with ⟨-, rfl⟩ | ⟨-, b, -, ⟨i, -, hexec⟩ | ⟨-, htransmit⟩⟩ |
    ⟨-, -, ⟨i, rest, -, hexec⟩ | ⟨-, rfl⟩ | ⟨n, -, rfl⟩ | rfl⟩
  · exact quiet
  · exact (exec_events hexec :)
  · obtain rfl := eq_emitAll_of_transmit_eq_next htransmit
    exact ⟨_, busList_txEvents _ _ _, rfl, rfl⟩
  · exact (exec_events hexec :)
  · exact quiet
  · exact quiet
  · exact quiet

/-- What a stream decodes to is a host operation (30_encoding.md R71, 44_transmit_strobe.md R95). -/
theorem isHost_of_decode {ws rest : List Word} {i : Instr} (h : decode ws = .ok (i, rest)) : i.isHost = true := by
  cases ws with
  | nil => cases h
  | cons w ws =>
    rcases decode_cases w ws with ⟨-, j, hj, -, -, hd⟩ | ⟨-, -, hd⟩ | ⟨-, r, -, hd⟩ <;> rw [hd] at h <;> cases h
    exact hj

/-- A stream whose payload is not all there begins with the header of a PRINT (30_encoding.md R56). -/
theorem length_lt_of_payloadMissing {ws : List Word} {n : Nat} (h : decode ws = .error (.payloadMissing n)) :
    ∃ w ps, ws = w :: ps ∧ ps.length < payloadLength w := by
  cases ws with
  | nil => cases h
  | cons w ws =>
    rcases decode_cases w ws with ⟨-, j, -, -, -, hd⟩ | ⟨-, hlt, hd⟩ | ⟨-, r, hr, hd⟩
    · rw [hd] at h; cases h
    · exact ⟨w, ws, rfl, hlt⟩
    · rw [hd] at h; cases h; cases hr

/-- Every step leaves the port idle or inside a PRINT, and no byte half sent (30_encoding.md R53, 10_state.md R33). -/
theorem step_port {s t : State} (hport : portOk s = true) (htx : s.txByte = none) (h : step s = .next t) :
    portOk t = true ∧ t.txByte = none := by
  rcases step_cases h with ⟨-, rfl⟩ | ⟨-, b, hb, -⟩ | ⟨-, -, ⟨i, rest, hdec, hexec⟩ | ⟨-, rfl⟩ | ⟨n, hdec, rfl⟩ | rfl⟩
  · exact ⟨rfl, rfl⟩
  · rw [htx] at hb
    cases hb
  · obtain ⟨-, rfl⟩ := exec_eq_next_iff.1 hexec
    obtain ⟨a, ha⟩ := answer_isSome (isHost_of_decode hdec) (accept rest s)
    simp [portOk, ha, htx]
  · exact ⟨hport, htx⟩
  · obtain ⟨w, ps, hws, hlt⟩ := length_lt_of_payloadMissing hdec
    simp [portOk, hws, hlt, htx]
  · simp [portOk, rejectWord, raise, htx]

theorem cutInv_step {s t : State} (hinv : CutInv s) (h : step s = .next t) : CutInv t := by
  obtain ⟨hport, htx, hread, hpins⟩ := hinv
  obtain ⟨hport', htx'⟩ := step_port hport htx h
  obtain ⟨es, ⟨-, hes⟩, hevents, hpins'⟩ := step_events h
  refine ⟨hport', htx', ?_, by rw [hpins', hevents, drivenPins_append, hpins]⟩
  rw [neverReads_iff] at hread ⊢
  simp [hevents, hread, hes]

theorem pulsesWhole_step {s t : State} (hwhole : pulsesWhole s.events = true) (h : step s = .next t) :
    pulsesWhole t.events = true := by
  obtain ⟨es, ⟨hes, -⟩, hevents, -⟩ := step_events h
  rw [hevents, pulsesWhole_append _ hwhole, hes]

/-- A word presented leaves the port, the events and the latches alone (log 5). -/
theorem cutInv_present {s : State} (w : Word) (h : CutInv s) : CutInv (present w s) := by
  unfold present
  split <;> exact h

theorem present_events (w : Word) (s : State) : (present w s).events = s.events := by
  unfold present
  split <;> rfl

theorem cutInv_setRst {s : State} (l : Bool) (h : CutInv s) : CutInv (setRst l s) := h

end Sys2Proof.Machine

/-! Bus bytes: their decoder, their transmission, and what the controller receives (30_encoding.md R58 to R69). -/

namespace Sys2Proof

open Sys2Proof.Machine

/-- A byte on the bus is its mode and its data lines (30_encoding.md R58). -/
theorem busMode_append_busData (b : BusByte) : BitVec.ofBool (rsLevel (busMode b)) ++ busData b = b := by
  revert b; decide

theorem decodeBus_encodeBus {i : Instr} (h : i.isHost = false) : decodeBus (encodeBus i) = .ok i := by
  cases i with
  | busClearDisplay | busReturnHome => rfl
  | busEntryModeSet j s => revert j s; decide
  | busDisplayControl d c b => revert d c b; decide
  | busFunctionSet l n f a => revert l n f a; decide
  | busSetDdramAddress a => revert a; decide
  | busDataWrite d => revert d; decide
  | _ => cases h

/-- A byte that decodes belongs to a bus row, and it is the byte of that row (each of the 512 bytes). -/
theorem encodeBus_of_decodeBus {b : BusByte} {i : Instr} (h : decodeBus b = .ok i) :
    i.isHost = false ∧ encodeBus i = b := by
  have hall : ∀ b : BusByte, (decodeBus b).toOption.all fun i => !i.isHost && encodeBus i == b := by decide
  simpa [h, Decoded.toOption] using hall b

/-- The bytes that decode are those of 30_encoding.md R69 (each of the 512 bytes). -/
theorem decodeBus_isSome (b : BusByte) :
    (decodeBus b).toOption.isSome = (b.getLsbD 8 || Spec.commandByte (b.extractLsb' 0 8)) := by
  revert b; decide

end Sys2Proof

namespace Sys2Proof.Machine

/-! ## Transmission and answer -/

/-- A transmission leaves the latches of 44_transmit_strobe.md R101. -/
theorem drivenPins_transmission (bus : Byte) (r : Bool) (b : Byte) (p : Pins) :
    drivenPins p (Spec.transmission bus r b) = Spec.pinsAfter bus r b p := by
  unfold Spec.transmission Spec.pinsAfter
  split
  · next h => simp [h, drivenPins, drive, Spec.pulse]
  · split
    · next h => simp [h, drivenPins, drive, Spec.pulse]
    · next h8 h4 => simp [h8, h4, drivenPins, drive]

theorem operationEvents_of_bus {i : Instr} (h : i.isHost = false) (s : State) :
    Spec.operationEvents i s = Spec.transmission s.cfgBus (Spec.busRow i).1 (Spec.busRow i).2 := by
  cases i with
  | busClearDisplay | busReturnHome | busEntryModeSet | busDisplayControl | busFunctionSet | busSetDdramAddress
  | busDataWrite => rfl
  | _ => cases h

/-- A bus row changes no register and has no answer (log 7). -/
theorem stateAfter_of_bus {i : Instr} (h : i.isHost = false) (s : State) :
    stateAfter i s = emitAll (Spec.operationEvents i s) s := by
  cases i with
  | busClearDisplay | busReturnHome | busEntryModeSet | busDisplayControl | busFunctionSet | busSetDdramAddress
  | busDataWrite => exact conclude_none _
  | _ => cases h

/-- The value REGRD answers (10_state.md R29, 46_register_access.md R110). -/
theorem readReg_of_regAt {idx : BitVec 4} {r : Reg} (h : regAt idx = some r) (s : State) :
    readReg r s = Spec.indexValue s idx.toNat := by
  unfold regAt at h
  split at h <;> cases h <;> simp [*, readReg, Spec.indexValue, BitVec.ofNat_toNat]

/-! ## The command bytes the controller receives (30_encoding.md R69) -/

@[simp] theorem busBytes_nil (bus : Byte) : busBytes bus [] = [] := by
  simp [busBytes, pairNibbles]

/-- A PRINT sends data bytes only (43_ddram_print.md R92). -/
theorem busBytes_transfers_dataTransmissions {bus : Byte} (h : Spec.legalBus bus = true) (p : Pins) (bs : List Byte) :
    busBytes bus (transfers p (Spec.dataTransmissions bus bs)) = bs.map (1#1 ++ ·) := by
  induction bs generalizing p with
  | nil => exact busBytes_nil bus
  | cons b bs ih =>
    rw [Spec.dataTransmissions, busBytes_transfers_transmission h, ih]
    rfl

theorem dataByte_ne_commandByte (c b : Byte) : (1#1 ++ c : BusByte) ≠ 0#1 ++ b := by
  intro h
  have hrs : (1#1 ++ c : BusByte).extractLsb' 8 1 = (0#1 ++ b : BusByte).extractLsb' 8 1 := by rw [h]
  rw [BitVec.extractLsb'_append_eq_left, BitVec.extractLsb'_append_eq_left] at hrs
  exact absurd hrs (by decide)

theorem commandByte_entryModeSet (id sh : BitVec 1) :
    Spec.commandByte (BitVec.ofNat 8 (0x04 + 2 * id.toNat + sh.toNat)) = true := by
  revert id sh; decide

theorem commandByte_displayControl (dcs : BitVec 3) : Spec.commandByte (BitVec.ofNat 8 (0x08 + dcs.toNat)) = true := by
  revert dcs; decide

theorem commandByte_functionSet (fss : BitVec 5) : Spec.commandByte (BitVec.ofNat 8 (0x20 + fss.toNat)) = true := by
  revert fss; decide

theorem commandByte_setDdramAddress (addr : Byte) (h : addr.toNat ≤ 0x7F) :
    Spec.commandByte (BitVec.ofNat 8 (0x80 + addr.toNat)) = true := by
  revert addr; decide

/-- Every command byte an operation sends is of the set of 30_encoding.md R69. -/
theorem commandByte_of_mem_busBytes {i : Instr} {s : State} {p : Pins} {b : Byte} (hhost : i.isHost = true)
    (hbus : Spec.legalBus s.cfgBus = true)
    (h : (0#1 ++ b : BusByte) ∈ busBytes s.cfgBus (transfers p (Spec.operationEvents i s))) :
    Spec.commandByte b = true := by
  have none_sent : (0#1 ++ b : BusByte) ∉ busBytes s.cfgBus (transfers p []) := by simp [transfers]
  have one_sent : ∀ {c : Byte}, (0#1 ++ b : BusByte) ∈ busBytes s.cfgBus (transfers p
      (Spec.transmission s.cfgBus false c)) → Spec.commandByte c = true → Spec.commandByte b = true := by
    intro c hc hcmd
    rw [busBytes_transfers_transmission_only hbus, List.mem_singleton] at hc
    rwa [(BitVec.append_right_inj 0#1).1 hc]
  have one_sent_then_delay : ∀ {c : Byte} {d : Nat}, (0#1 ++ b : BusByte) ∈ busBytes s.cfgBus (transfers p
      (Spec.transmission s.cfgBus false c ++ [.delay d])) → Spec.commandByte c = true → Spec.commandByte b = true := by
    intro c d hc hcmd
    refine one_sent ?_ hcmd
    simpa [busBytes_transfers_transmission hbus, busBytes_transfers_transmission_only hbus, transfers] using hc
  cases i with
  | init =>
    simp only [Spec.operationEvents] at h
    split at h
    · split at h
      · next hconf =>
        have hc : configOk s = true := by rwa [← legalConfig_eq_configOk]
        rw [busBytes_transfers_initEvents hbus, ← fssOf_toNat hc] at h
        simp only [List.mem_cons, List.not_mem_nil, or_false, BitVec.append_right_inj] at h
        rcases h with rfl | rfl | rfl | rfl
        · exact commandByte_functionSet _
        · rfl
        · rfl
        · rfl
      · exact absurd h none_sent
    · exact absurd h none_sent
  | clear => exact one_sent_then_delay h rfl
  | home => exact one_sent_then_delay h rfl
  | entryModeSet id sh => exact one_sent h (commandByte_entryModeSet id sh)
  | displayOn | displayOff | cursorOn | cursorOff | blinkOn | blinkOff =>
    exact one_sent h (commandByte_displayControl _)
  | setDdramAddr addr =>
    simp only [Spec.operationEvents] at h
    split at h
    · exact absurd h none_sent
    · next haddr => exact one_sent h (commandByte_setDdramAddress addr (by omega))
  | print bytes =>
    rw [Spec.operationEvents, busBytes_transfers_dataTransmissions hbus, List.mem_map] at h
    obtain ⟨c, -, hc⟩ := h
    exact absurd hc (dataByte_ne_commandByte c b)
  | functionSet =>
    simp only [Spec.operationEvents] at h
    split at h
    · next hconf =>
      have hc : configOk s = true := by rwa [← legalConfig_eq_configOk]
      rw [← fssOf_toNat hc] at h
      exact one_sent h (commandByte_functionSet _)
    · exact absurd h none_sent
  | cfgw idx val => exact absurd h none_sent
  | regrd idx => exact absurd h none_sent
  | _ => cases hhost

/-- A block after reset whose Function Set byte has the parameter bits of `b` and whose `DCS` holds its low bits. -/
def stateSending (b : Byte) : State :=
  { State.reset with
    cfgBus := (b.extractLsb' 4 1).setWidth 8, cfgLines := (b.extractLsb' 3 1).setWidth 8 + 1#8,
    cfgFont := (b.extractLsb' 2 1).setWidth 8, cfgAlpha := (b.extractLsb' 0 2).setWidth 8, dcs := b.extractLsb' 0 3 }

theorem legalConfig_stateSending (b : Byte) : Spec.legalConfig (stateSending b) = true := by
  revert b; decide

/-- An operation that sends `b` as a command makes the controller receive it. -/
theorem received_of_sent {i : Instr} {b : Byte} {es : List Event}
    (h : Spec.operationEvents i (stateSending b) = Spec.transmission (stateSending b).cfgBus false b ++ es) :
    exec i (stateSending b) = .next (stateAfter i (stateSending b)) ∧
      (0#1 ++ b : BusByte) ∈ receivedBytes (stateSending b) (stateAfter i (stateSending b)) := by
  have hbus : Spec.legalBus (stateSending b).cfgBus = true :=
    legalBus_of_configOk (by rw [← legalConfig_eq_configOk, legalConfig_stateSending])
  have hexec : exec i (stateSending b) = .next (stateAfter i (stateSending b)) :=
    exec_eq_next_iff.2 ⟨present_of_complete rfl _, rfl⟩
  refine ⟨hexec, ?_⟩
  rw [receivedBytes_of_exec hexec, h, busBytes_transfers_transmission hbus]
  exact List.mem_cons_self

/-- Every byte of the set has an operation that sends it (30_encoding.md R60 to R65, R69). -/
theorem exists_sender {b : Byte} (h : Spec.commandByte b = true) : ∃ i es, i.isHost = true ∧
    Spec.operationEvents i (stateSending b) = Spec.transmission (stateSending b).cfgBus false b ++ es := by
  have hentry : ∀ b : Byte, 0x04 ≤ b.toNat → b.toNat < 0x08 →
      BitVec.ofNat 8 (0x04 + 2 * (b.extractLsb' 1 1).toNat + (b.extractLsb' 0 1).toNat) = b := by decide
  have hoff : ∀ b : Byte, 0x08 ≤ b.toNat → b.toNat < 0x0C →
      BitVec.ofNat 8 (0x08 + ((stateSending b).dcs &&& 0b011#3).toNat) = b := by decide
  have hon : ∀ b : Byte, 0x0C ≤ b.toNat → b.toNat ≤ 0x0F →
      BitVec.ofNat 8 (0x08 + ((stateSending b).dcs ||| 0b100#3).toNat) = b := by decide
  have hfunction : ∀ b : Byte, 0x20 ≤ b.toNat ∧ b.toNat ≤ 0x3F →
      BitVec.ofNat 8 (0x20 + Spec.fssNumber (stateSending b)) = b := by decide
  have hddram : ∀ b : Byte, 0x80 ≤ b.toNat →
      ¬0x7F < (b - 0x80#8).toNat ∧ BitVec.ofNat 8 (0x80 + (b - 0x80#8).toNat) = b := by decide
  simp only [Spec.commandByte, Bool.or_eq_true, decide_eq_true_eq] at h
  rcases h with (((h | h) | ⟨hlo, hhi⟩) | h) | h
  · obtain rfl : b = 0x01#8 := BitVec.eq_of_toNat_eq h
    exact ⟨.clear, [.delay 7000], rfl, rfl⟩
  · obtain rfl : b = 0x02#8 := BitVec.eq_of_toNat_eq h
    exact ⟨.home, [.delay 2000], rfl, rfl⟩
  · rcases Nat.lt_or_ge b.toNat 0x08 with h8 | h8
    · refine ⟨.entryModeSet (b.extractLsb' 1 1) (b.extractLsb' 0 1), [], rfl, ?_⟩
      simp only [Spec.operationEvents, hentry b hlo h8, List.append_nil]
    rcases Nat.lt_or_ge b.toNat 0x0C with hC | hC
    · refine ⟨.displayOff, [], rfl, ?_⟩
      simp only [Spec.operationEvents, hoff b h8 hC, List.append_nil]
    · refine ⟨.displayOn, [], rfl, ?_⟩
      simp only [Spec.operationEvents, hon b hC hhi, List.append_nil]
  · refine ⟨.functionSet, [], rfl, ?_⟩
    simp only [Spec.operationEvents, legalConfig_stateSending, if_true, hfunction b h, List.append_nil]
  · obtain ⟨hmax, hbyte⟩ := hddram b h
    refine ⟨.setDdramAddr (b - 0x80#8), [], rfl, ?_⟩
    simp only [Spec.operationEvents, if_neg hmax, hbyte, List.append_nil]

end Sys2Proof.Machine

namespace Sys2Proof.Proofs

open Sys2Proof.Machine Sys2Proof.Safety

/-- Settles O13: each field of the header word is read back, and the payload words of a PRINT are its bytes. -/
theorem decodeEncodeAgree : Obligations.DecodeEncodeAgree := by
  unfold Obligations.DecodeEncodeAgree
  intro i rest hhost hwf
  cases i with
  | entryModeSet id s =>
    have hbits : ∀ id s : BitVec 1, (0#6 ++ id ++ s : Byte).extractLsb' 2 6 = 0#6 ∧
        (0#6 ++ id ++ s : Byte).extractLsb' 1 1 = id ∧ (0#6 ++ id ++ s : Byte).extractLsb' 0 1 = s := by decide
    obtain ⟨hzero, hid, hs⟩ := hbits id s
    simp [encode, decode, decodeWord, decodeEntryModeSet, hzero, hid, hs]
  | setDdramAddr addr => simp [encode, decode, decodeWord, decodeSetDdramAddr]
  | print bytes =>
    have hmax : bytes.length ≤ 255 := of_decide_eq_true hwf
    have hlen : (bytes.map payloadWord).length = (BitVec.ofNat 8 bytes.length).toNat := by
      rw [List.length_map, BitVec.toNat_ofNat, Nat.mod_eq_of_lt (by omega)]
    rw [encode, List.cons_append, decode_print_append hlen, List.map_map]
    simp [Function.comp_def, payloadByte_payloadWord]
  | cfgw idx val => simp [encode, decode, decodeWord]
  | regrd idx => simp [encode, decode, decodeWord, decodeRegrd]
  | init | clear | home | displayOn | displayOff | cursorOn | cursorOff | blinkOn | blinkOff | functionSet => rfl
  | _ => cases hhost

/-- Settles O55: a step adds whole pulses without a read of the bus, and ends with the port idle or inside a PRINT. -/
theorem stepKeepsInvariant : Obligations.StepKeepsInvariant := by
  unfold Obligations.StepKeepsInvariant
  intro s t ⟨hcut, hwhole⟩ hstep
  exact ⟨cutInv_step hcut hstep, pulsesWhole_step hwhole hstep⟩

/-- Settles O6: a word of no row decodes to a reason that makes it illegal, a word of a row does not. -/
theorem illegalWordIsRejected : Obligations.IllegalWordIsRejected := by
  unfold Obligations.IllegalWordIsRejected
  refine ⟨?_, ?_⟩
  · intro s w ws ⟨hrst, htx, hacc⟩ hreq hrow
    have hport : portWords s = w :: ws := by rw [portWords_of_accepted_nil hacc, hreq]
    rcases decode_cases w ws with ⟨hlegal, -⟩ | ⟨hlegal, -⟩ | ⟨-, r, hr, hdec⟩
    · simp [hrow] at hlegal
    · simp [hrow] at hlegal
    · rw [step_of_isIllegalWord hrst htx hr (hport ▸ hdec)]
      simp [rejectWord, raise, respond, accept, hport, hreq, hacc]
  · intro w ws hrow
    rcases decode_cases w ws with ⟨-, i, -, -, -, hdec⟩ | ⟨-, -, hdec⟩ | ⟨hillegal, -⟩
    · exact .inl ⟨i, hdec⟩
    · exact .inr ⟨_, hdec⟩
    · simp [hrow] at hillegal

/-- Settles O7: only a PRINT header has a payload, and its `arg` is the count. -/
theorem requestLengthIsKnownFromHeader : Obligations.RequestLengthIsKnownFromHeader := by
  unfold Obligations.RequestLengthIsKnownFromHeader
  intro w ws
  refine ⟨fun i rest hdec => ?_, fun ⟨hop, hidx⟩ => ?_⟩
  · rcases decode_cases w ws with ⟨-, j, -, -, henc, hd⟩ | ⟨-, -, hd⟩ | ⟨-, r, -, hd⟩ <;> rw [hd] at hdec <;>
      cases hdec
    refine ⟨by rw [payloadLength_eq], ?_, fun hw => ?_⟩
    · rintro ⟨bytes, rfl, -⟩
      obtain rfl := Option.some.inj henc
      simp [and_eq_print_iff]
    · obtain ⟨hop, hidx⟩ := (and_eq_print_iff w).1 hw
      rw [eq_hword_of_fields hop hidx rfl, decode_print] at hd
      split at hd
      · cases hd
      · next hthere =>
        obtain ⟨rfl, -⟩ := Prod.mk.inj (Decoded.ok.inj hd)
        refine ⟨_, rfl, ?_⟩
        rw [List.length_map, List.length_take, ← argField_toNat]
        omega
  · rw [and_eq_print_iff_op] at hop
    rw [ne_eq, and_eq_zero_iff_idx] at hidx
    simp [decode, decodeWord, decodePrint, hop, hidx]

/-- Settles O8: a PRINT header takes its payload from the stream undecoded. -/
theorem payloadWordsAreNeverDecoded : Obligations.PayloadWordsAreNeverDecoded := by
  unfold Obligations.PayloadWordsAreNeverDecoded
  intro n ps rest hlen
  rw [printHeader_eq, decode_print_append hlen]
  rfl

/-- Settles O9, by what the header and the words that have come decode to. -/
theorem printWaitsForItsPayload : Obligations.PrintWaitsForItsPayload := by
  unfold Obligations.PrintWaitsForItsPayload
  simp only [printHeader_eq]
  refine ⟨?_, ?_, ?_⟩
  · intro s n ps ⟨hrst, htx, hacc⟩ hlt hreq
    have hdec : decode (portWords s) = .error (.payloadMissing (n.toNat - ps.length)) := by
      rw [portWords_of_accepted_nil hacc, hreq, decode_print, if_pos hlt]
    rw [step_of_payloadMissing hrst htx hdec]
    simp [await, portWords_of_accepted_nil hacc, hreq, Nat.add_comm]
  · intro s n ps hrst htx hacc hlt
    have hdec : decode (portWords s) = .error (.payloadMissing (n.toNat - (ps ++ s.requests).length)) := by
      rw [portWords, hacc, List.cons_append, decode_print, if_pos (by rwa [List.length_append])]
    rw [step_of_payloadMissing hrst htx hdec]
    rfl
  · intro s n ps qs rest hrst htx hacc hreq hlen
    have hdec : decode (portWords s) = .ok (.print ((ps ++ qs).map payloadByte), rest) := by
      rw [portWords, hacc, hreq, List.cons_append, ← List.append_assoc, decode_print_append (by simpa using hlen)]
    have haccept : accept rest s =
        { s with requests := rest, accepted := [], busy := true, rp := s.rp + qs.length } := by
      simp [accept, hreq]
    rw [step_of_decode_ok hrst htx hdec, haccept]
    rfl

/-- Settles O14, by the three ways decoding can end. -/
theorem encodeDecodeAgree : Obligations.EncodeDecodeAgree := by
  unfold Obligations.EncodeDecodeAgree
  intro w ws rest i hdec
  rcases decode_cases w ws with ⟨-, j, hhost, hwf, henc, hd⟩ | ⟨-, -, hd⟩ | ⟨-, r, -, hd⟩ <;> rw [hd] at hdec <;>
    cases hdec
  exact ⟨hhost, hwf, henc⟩

/-- Settles O15, by the decoder and the encoder of bus bytes. -/
theorem busDecodeEncodeAgree : Obligations.BusDecodeEncodeAgree := by
  unfold Obligations.BusDecodeEncodeAgree
  refine ⟨fun i => decodeBus_encodeBus, fun b i => encodeBus_of_decodeBus, fun b => ?_⟩
  rw [← Bool.or_eq_true, ← decodeBus_isSome]
  cases decodeBus b <;> simp [Decoded.toOption]

/-- Settles O38: a bus row emits its transmission and leaves all but the latches as it is. -/
theorem busRowsAreTransmitted : Obligations.BusRowsAreTransmitted := by
  unfold Obligations.BusRowsAreTransmitted
  intro i s hbus
  refine ⟨?_, fun hpresent => ?_⟩
  · rw [← busMode_busData_encodeBus hbus, busMode_append_busData]
  · rw [← operationEvents_of_bus hbus] at hpresent
    rw [exec_eq_next_iff.2 ⟨hpresent, rfl⟩, stateAfter_of_bus hbus, emitAll, operationEvents_of_bus hbus,
      drivenPins_transmission]

/-- Settles O43, by the answer of each operation. -/
theorem oneResponsePerRequest : Obligations.OneResponsePerRequest := by
  unfold Obligations.OneResponsePerRequest
  intro i s t hhost hexec
  obtain ⟨-, rfl⟩ := exec_eq_next_iff.1 hexec
  rw [stateAfter_responses]
  cases i with
  | regrd idx =>
    rcases hr : regAt idx with _ | r
    · exact ⟨.invalidArgument, 0x00#8, by simp [answer, hr], rfl⟩
    · exact ⟨.ok, readReg r s, by simp [answer, hr], readReg_of_regAt hr s⟩
  | busClearDisplay | busReturnHome | busEntryModeSet | busDisplayControl | busFunctionSet | busSetDdramAddress
  | busDataWrite => cases hhost
  | _ => exact ⟨_, _, rfl, rfl⟩

/-- Settles O50: what an operation sends as a command is of the set, and every byte of the set has an operation that
sends it. -/
theorem commandBytesAreExactlyThose : Obligations.CommandBytesAreExactlyThose := by
  unfold Obligations.CommandBytesAreExactlyThose
  refine fun b => ⟨?_, fun hb => ?_⟩
  · rintro ⟨i, s, t, hhost, hexec, hmem⟩
    rw [receivedBytes_of_exec hexec] at hmem
    by_cases hbus : Spec.legalBus s.cfgBus = true
    · exact commandByte_of_mem_busBytes hhost hbus hmem
    · rw [busBytes_of_not_legalBus (by simpa using hbus)] at hmem
      cases hmem
  · obtain ⟨i, es, hhost, hevents⟩ := exists_sender hb
    obtain ⟨hexec, hmem⟩ := received_of_sent hevents
    exact ⟨i, _, _, hhost, hexec, hmem⟩

/-- Settles O4, by the definition of accepting a request. -/
theorem stepRunsDecodedRequest : Obligations.StepRunsDecodedRequest := by
  unfold Obligations.StepRunsDecodedRequest
  intro s i rest ⟨hrst, htx, hacc⟩ hdec
  rw [step_of_decode_ok hrst htx (by rwa [portWords_of_accepted_nil hacc])]
  simp [accept, hacc]

/-- Settles O5: the byte of a bus row decodes to that row. -/
theorem stepSendsBusByte : Obligations.StepSendsBusByte := by
  unfold Obligations.StepSendsBusByte
  intro s i hrst hbus htx
  simp [step, stepBus, hrst, htx, decodeBus_encodeBus hbus]

/-- Settles O10, by the two cases of presenting a word. -/
theorem overlappingWordHasNoEffect : Obligations.OverlappingWordHasNoEffect := by
  unfold Obligations.OverlappingWordHasNoEffect
  intro s w
  have hguard : (s.busy && s.accepted.isEmpty) = true ↔ s.busy = true ∧ s.accepted = [] := by simp
  exact ⟨fun h => if_pos (hguard.2 h), fun h => if_neg (mt hguard.1 h)⟩

/-- Settles O16, by evaluating the decoders on the words. -/
theorem knownWordsDecode : Obligations.KnownWordsDecode := by
  unfold Obligations.KnownWordsDecode
  and_intros <;> decide

/-- Settles O17: the header `0xB001` and its payload word, and the words of the four CFGW. -/
theorem pseudoInstructionsExpand : Obligations.PseudoInstructionsExpand := by
  unfold Obligations.PseudoInstructionsExpand
  have hcfgw : ∀ v : Byte, hword 0xD#4 0#4 v = 0xD000#16 ||| v.setWidth 16 ∧
      hword 0xD#4 1#4 v = 0xD100#16 ||| v.setWidth 16 ∧ hword 0xD#4 2#4 v = 0xD200#16 ||| v.setWidth 16 ∧
      hword 0xD#4 3#4 v = 0xD300#16 ||| v.setWidth 16 := by decide
  refine ⟨by decide, fun l f b a => ?_⟩
  simp [Assembler.config, encode, hcfgw]

/-- Settles O56: neither move touches the port, the events or the latches. -/
theorem hostMovesKeepInvariant : Obligations.HostMovesKeepInvariant := by
  unfold Obligations.HostMovesKeepInvariant
  intro s w l ⟨hcut, hwhole⟩
  exact ⟨⟨cutInv_present w hcut, by rwa [present_events]⟩, cutInv_setRst l hcut, hwhole⟩

end Sys2Proof.Proofs

/-! INIT: its three outcomes (40_init.md R75 to R79). -/

namespace Sys2Proof.Machine

/-- INIT checks `BIND` itself, so no missing primitive makes the block refuse it (40_init.md R75). -/
theorem exec_init_eq_next (s : State) : exec .init s = .next (stateAfter .init s) :=
  exec_eq_next_iff.2 ⟨present_operationEvents_init s, rfl⟩

/-- The last byte of INIT, Entry Mode Set, stays on the latches (40_init.md R78). -/
theorem drivenPins_initEvents {bus : Byte} (h : Spec.legalBus bus = true) (fs : Byte) (p : Pins) :
    drivenPins p (Spec.initEvents bus fs) = ⟨false, false, false, 0x06#8⟩ := by
  have hbus : bus = 0x01#8 ∨ bus = 0x00#8 := by simpa [Spec.legalBus, or_comm] using h
  rw [specInitEvents_eq fs h, drivenPins_append, drivenPins_transmission, Spec.pinsAfter, if_pos hbus]

theorem fssOf_eq_ofNat {s : State} (h : configOk s = true) : fssOf s = BitVec.ofNat 5 (Spec.fssNumber s) := by
  rw [← fssOf_toNat h, BitVec.ofNat_toNat, BitVec.setWidth_eq]

/-- `DL = 0` on a 4-bit bus (45_function_set_entry_mode.md R104). -/
theorem functionSetByte_packFss_bus4_highNibble : ∀ lines ∈ Params.linesLegal, ∀ font ∈ Params.fonts,
    ∀ alpha ∈ Params.alphas, functionSetByte (packFss Params.bus4 lines font alpha) >>> 4 = 0x02#8 := by
  decide

theorem functionSetByte_fssOf_highNibble {s : State} (h : configOk s = true) (hbus : s.cfgBus = 0x00#8) :
    functionSetByte (fssOf s) >>> 4 = 0x02#8 := by
  obtain ⟨-, hlines, hfont, halpha⟩ := (configOk_iff s).1 h
  rw [fssOf, hbus]
  exact functionSetByte_packFss_bus4_highNibble _ hlines _ hfont _ halpha

/-! ## The length of INIT and the time it asks for (40_init.md R79) -/

theorem length_initEvents_bus8 (fs : Byte) : (Spec.initEvents 0x01#8 fs).length = 40 := by
  simp [Spec.initEvents, Spec.pulse]

theorem length_initEvents_bus4 (fs : Byte) : (Spec.initEvents 0x00#8 fs).length = 68 := by
  simp [Spec.initEvents, Spec.pulse]

theorem minTime_append (as bs : List Event) : minTime (as ++ bs) = minTime as + minTime bs := by
  simp [minTime]

theorem minTime_transmission_bus8 (r : Bool) (b : Byte) : minTime (Spec.transmission 0x01#8 r b) = 102 := by
  simp [Spec.transmission, Spec.pulse, minTime, delayOf]

theorem minTime_transmission_bus4 (r : Bool) (b : Byte) : minTime (Spec.transmission 0x00#8 r b) = 204 := by
  simp [Spec.transmission, Spec.pulse, minTime, delayOf]

/-- The four delays of INIT and its four transmissions. -/
theorem minTime_initEvents {bus : Byte} {t : Nat} (h : Spec.legalBus bus = true)
    (ht : ∀ b, minTime (Spec.transmission bus false b) = t) (fs : Byte) :
    minTime (Spec.initEvents bus fs) = 66000 + 4 * t := by
  have hdelay : ∀ d, minTime [.delay d] = d := fun d => Nat.add_zero d
  simp only [specInitEvents_eq fs h, minTime_append, ht, hdelay]
  omega

/-! ## The three outcomes -/

/-- INIT runs to its end (40_init.md R76, R78). -/
theorem exec_init_of_configOk {s : State} (hready : initReady s = true) (hconfig : configOk s = true) :
    exec .init s = .next { Spec.answered s
      (Spec.initEvents s.cfgBus (BitVec.ofNat 8 (0x20 + Spec.fssNumber s)))
      ⟨false, false, false, 0x06#8⟩ .ok 0x00#8 with
      fss := BitVec.ofNat 5 (Spec.fssNumber s), dcs := 0b100#3, ems := 0b10#2 } := by
  have hevents : Spec.operationEvents .init s =
      Spec.initEvents s.cfgBus (BitVec.ofNat 8 (0x20 + Spec.fssNumber s)) := by
    simp only [Spec.operationEvents, ← initReady_iff, legalConfig_eq_configOk, hready, hconfig, if_true]
  have hpins := drivenPins_initEvents (legalBus_of_configOk hconfig)
  rw [exec_init_eq_next, stateAfter, hevents]
  simp [answer, regsAfter, hready, hconfig, conclude, emitAll, hpins, fssOf_eq_ofNat hconfig, Spec.answered,
    dcsAfterInit, packEms]

/-- The precondition fails: nothing has been emitted (40_init.md R75). -/
theorem exec_init_of_not_initReady {s : State} (h : initReady s = false) :
    exec .init s = .next (Spec.failed s .invalidArgument) := by
  have hevents : Spec.operationEvents .init s = [] := by
    simp [Spec.operationEvents, ← initReady_iff, h]
  rw [exec_init_eq_next, stateAfter, hevents]
  simp [answer, regsAfter, h, conclude, Spec.failed, Spec.answered]

/-- Step 2 fails: the power delay has been emitted (40_init.md R76). -/
theorem exec_init_of_not_configOk {s : State} (hready : initReady s = true) (hconfig : configOk s = false) :
    exec .init s = .next (Spec.answered s [.delay 50000] s.pins .invalidArgument 0x00#8) := by
  have hevents : Spec.operationEvents .init s = [.delay 50000] := by
    simp [Spec.operationEvents, ← initReady_iff, legalConfig_eq_configOk, hready, hconfig]
  rw [exec_init_eq_next, stateAfter, hevents]
  simp [answer, regsAfter, hready, hconfig, conclude, emitAll, drivenPins, drive, Spec.answered]

end Sys2Proof.Machine

namespace Sys2Proof.Proofs

open Sys2Proof.Machine

/-- Settles O23: the precondition fails, or it holds and the configuration fails. -/
theorem initRejectsBadConfiguration : Obligations.InitRejectsBadConfiguration := by
  unfold Obligations.InitRejectsBadConfiguration
  refine fun s => ⟨fun h => exec_init_of_not_initReady ?_, fun ⟨hbind, hlines, hconfig⟩ => ?_⟩
  · rw [Bool.eq_false_iff, ne_eq, initReady_iff, not_and_or, Bool.not_eq_true]
    exact h
  · rw [legalConfig_eq_configOk] at hconfig
    exact exec_init_of_not_configOk ((initReady_iff s).2 ⟨hbind, hlines⟩) hconfig

/-- Settles O22: the event lists are counted and summed, a legal configuration runs INIT to its end, and O23 gives the
failures. -/
theorem initRunsWholeSequence : Obligations.InitRunsWholeSequence := by
  unfold Obligations.InitRunsWholeSequence
  have h8 := minTime_initEvents rfl (minTime_transmission_bus8 false)
  have h4 := minTime_initEvents rfl (minTime_transmission_bus4 false)
  refine ⟨rfl, fun fs => ⟨length_initEvents_bus8 fs, h8 fs, length_initEvents_bus4 fs, h4 fs⟩, fun s => ?_⟩
  rw [legalConfig_eq_configOk]
  refine ⟨fun hbind hconfig => ?_, fun hconfig hbus => ?_, ?_⟩
  · exact exec_init_of_configOk ((initReady_iff s).2 ⟨hbind, legalLines_of_configOk hconfig⟩) hconfig
  · rw [← functionSetByte_fssOf hconfig]
    exact functionSetByte_fssOf_highNibble hconfig hbus
  · rw [← legalConfig_eq_configOk]
    exact initRejectsBadConfiguration s

/-- Settles O24: of the three outcomes one answers `Ok`, and the two that answer `InvalidArgument` write no cache. -/
theorem initNeverAnswersFail : Obligations.InitNeverAnswersFail := by
  unfold Obligations.InitNeverAnswersFail
  intro s
  by_cases hready : initReady s = true
  · by_cases hconfig : configOk s = true
    · exact ⟨_, .ok, exec_init_of_configOk hready hconfig, rfl, .inl rfl, nofun⟩
    · exact ⟨_, _, exec_init_of_not_configOk hready (by simpa using hconfig), rfl, .inr rfl, fun _ => ⟨rfl, rfl, rfl⟩⟩
  · exact ⟨_, _, exec_init_of_not_initReady (by simpa using hready), rfl, .inr rfl, fun _ => ⟨rfl, rfl, rfl⟩⟩

end Sys2Proof.Proofs

/-! CLEAR and HOME: one transmission and its settle delay (41_clear_home.md R80, R81). -/

namespace Sys2Proof.Machine

theorem txStatus_eq_specTxStatus (bus : Byte) : txStatus bus = Spec.txStatus bus := rfl

/-- A delay drives no latch (10_state.md R28). -/
theorem drivenPins_transmission_delay (bus : Byte) (r : Bool) (b : Byte) (d : Nat) (p : Pins) :
    drivenPins p (Spec.transmission bus r b ++ [.delay d]) = Spec.pinsAfter bus r b p := by
  rw [drivenPins_append, drivenPins_transmission]
  rfl

/-- A request whose primitives are present writes its registers, emits its events and answers. -/
theorem exec_eq_answered {i : Instr} {s : State} {r : Response}
    (hpresent : Spec.present s.bind (Spec.operationEvents i s) = true) (hanswer : answer i s = some r) :
    exec i s = .next (Spec.answered (regsAfter i s) (Spec.operationEvents i s)
      (drivenPins s.pins (Spec.operationEvents i s)) r.status r.rdata) := by
  refine exec_eq_next_iff.2 ⟨hpresent, ?_⟩
  rw [stateAfter, hanswer, conclude_some, emitAll, (sameButRegs_regsAfter i s).pins_eq]
  rfl

/-- A command and a settle delay that follows whatever its status, without a register written. -/
theorem exec_of_transmission_delay {i : Instr} {s : State} {b : Byte} {d : Nat}
    (hevents : Spec.operationEvents i s = Spec.transmission s.cfgBus false b ++ [.delay d])
    (hregs : regsAfter i s = s) (hanswer : answer i s = some ⟨txStatus s.cfgBus, 0x00#8⟩)
    (hpresent : Spec.present s.bind (Spec.transmission s.cfgBus false b ++ [.delay d]) = true) :
    exec i s = .next (Spec.answered s (Spec.transmission s.cfgBus false b ++ [.delay d])
      (Spec.pinsAfter s.cfgBus false b s.pins) (Spec.txStatus s.cfgBus) 0x00#8) := by
  rw [← hevents] at hpresent
  rw [exec_eq_answered hpresent hanswer, hregs, hevents, drivenPins_transmission_delay, txStatus_eq_specTxStatus]

end Sys2Proof.Machine

namespace Sys2Proof.Proofs

open Sys2Proof.Machine

/-- Settles O25: CLEAR is the command `0x01` and a delay of 7000 µs. -/
theorem clearSendsAndWaits : Obligations.ClearSendsAndWaits := by
  unfold Obligations.ClearSendsAndWaits
  exact ⟨rfl, fun s => exec_of_transmission_delay rfl rfl rfl⟩

/-- Settles O26: HOME is the command `0x02` and a delay of 2000 µs. -/
theorem homeSendsAndWaits : Obligations.HomeSendsAndWaits := by
  unfold Obligations.HomeSendsAndWaits
  exact ⟨rfl, fun s => exec_of_transmission_delay rfl rfl rfl⟩

end Sys2Proof.Proofs

/-! The six display operations: each is `DCTL(k, on)` on its bit of `DCS` (42_display_control.md R83 to R90). -/

namespace Sys2Proof.Machine

/-! ## One bit of `DCS` -/

theorem one_shiftLeft_getLsbD (k : Nat) {j : Nat} (hj : j < 3) : (1#3 <<< k).getLsbD j = decide (j = k) := by
  rw [Bool.eq_iff_iff]
  simp only [BitVec.getLsbD_shiftLeft, BitVec.getLsbD_one, Bool.and_eq_true, Bool.not_eq_true', decide_eq_true_eq,
    decide_eq_false_iff_not]
  omega

/-- `DCTL(k, on)` gives bit `k` the value `on` and leaves the others (42_display_control.md R83). -/
theorem dctlBits_getLsbD (k : Nat) (on : Bool) (dcs : BitVec 3) {j : Nat} (hj : j < 3) :
    (dctlBits k on dcs).getLsbD j = if j = k then on else dcs.getLsbD j := by
  have hmask := one_shiftLeft_getLsbD k hj
  cases on with
  | true =>
    rw [dctlBits, if_pos rfl, BitVec.getLsbD_or, hmask]
    by_cases hjk : j = k <;> simp [hjk]
  | false =>
    rw [dctlBits, if_neg Bool.false_ne_true, BitVec.getLsbD_and, BitVec.getLsbD_not, hmask]
    by_cases hjk : j = k <;> simp [hj, hjk]

theorem dctlBits_dctlBits_same (k : Nat) (on : Bool) (dcs : BitVec 3) :
    dctlBits k on (dctlBits k on dcs) = dctlBits k on dcs := by
  refine BitVec.eq_of_getLsbD_eq fun j hj => ?_
  rw [dctlBits_getLsbD k on _ hj, dctlBits_getLsbD k on _ hj]
  split <;> rfl

/-! ## A row of the six operations -/

/-- Each row of the six is `DCTL` on its bit: the table's new `DCS` is what `DCTL` gives, and its operation writes
that bit in every state (42_display_control.md R83 to R89). -/
theorem row_of_mem_displayOps {dcs : BitVec 3} {r : Instr × Word × Nat × Bool × BitVec 3}
    (hrow : r ∈ Spec.displayOps dcs) :
    encode r.1 = [r.2.1] ∧ Spec.isDisplayOp r.1 = true ∧ r.2.2.2.2 = dctlBits r.2.2.1 r.2.2.2.1 dcs ∧
      ∀ s, regsAfter r.1 s = { s with dcs := dctlBits r.2.2.1 r.2.2.2.1 s.dcs } := by
  simp only [Spec.displayOps, List.mem_cons, List.not_mem_nil, or_false] at hrow
  rcases hrow with rfl | rfl | rfl | rfl | rfl | rfl <;>
    exact ⟨rfl, rfl, by simp [dctlBits], fun _ => by simp [regsAfter, dctlBits]⟩

/-- A display operation answers the status of its transmission (42_display_control.md R83). -/
theorem answer_of_isDisplayOp {i : Instr} (h : Spec.isDisplayOp i = true) (s : State) :
    answer i s = some ⟨txStatus s.cfgBus, 0x00#8⟩ := by
  cases i with
  | displayOn | displayOff | cursorOn | cursorOff | blinkOn | blinkOff => rfl
  | _ => simp [Spec.isDisplayOp, Spec.displayOps] at h

theorem dcs_of_exec_displayOp {dcs : BitVec 3} {r : Instr × Word × Nat × Bool × BitVec 3}
    (hrow : r ∈ Spec.displayOps dcs) {s t : State} (hexec : exec r.1 s = .next t) :
    t.dcs = dctlBits r.2.2.1 r.2.2.2.1 s.dcs := by
  obtain ⟨-, -, -, hregs⟩ := row_of_mem_displayOps hrow
  obtain ⟨-, rfl⟩ := exec_eq_next_iff.1 hexec
  rw [stateAfter_dcs, hregs]

end Sys2Proof.Machine

namespace Sys2Proof.Proofs

open Sys2Proof.Machine

/-- Settles O27: each of the six writes its bit, sends one command byte and answers the status of that. -/
theorem displayControlUpdatesAndSends : Obligations.DisplayControlUpdatesAndSends := by
  unfold Obligations.DisplayControlUpdatesAndSends
  intro s r hrow
  obtain ⟨hencode, hdisplay, hnew, hregs⟩ := row_of_mem_displayOps hrow
  refine ⟨hencode, fun hpresent => ?_⟩
  have hevents : Spec.operationEvents r.1 s =
      Spec.transmission s.cfgBus false (BitVec.ofNat 8 (0x08 + r.2.2.2.2.toNat)) := by
    rw [operationEvents_of_isDisplayOp hdisplay, hregs, hnew]
  rw [← hevents] at hpresent
  rw [exec_eq_answered hpresent (answer_of_isDisplayOp hdisplay s), hevents, hregs, ← hnew, drivenPins_transmission,
    txStatus_eq_specTxStatus]
  rfl

/-- Settles O28: a display operation writes one bit of `DCS`, and writing a bit twice is writing it once. -/
theorem displayBitsAreIndependent : Obligations.DisplayBitsAreIndependent := by
  unfold Obligations.DisplayBitsAreIndependent
  intro s t r hrow hfirst
  have ht := dcs_of_exec_displayOp hrow hfirst
  refine ⟨fun j hj => ?_, fun u hsecond => ?_⟩
  · rw [ht, dctlBits_getLsbD _ _ _ hj]
  · rw [dcs_of_exec_displayOp hrow hsecond, ht, dctlBits_dctlBits_same]

end Sys2Proof.Proofs

/-! SET_DDRAM_ADDR and PRINT (43_ddram_print.md R91 to R94). -/

namespace Sys2Proof.Machine

/-! ## `OR` on statuses (43_ddram_print.md R93) -/

@[simp] theorem Status.failed_eq_true_iff (st : Status) : st.failed = true ↔ st ≠ .ok := decide_eq_true_iff

theorem Status.or_eq_ok_iff (a b : Status) : a.or b = .ok ↔ a = .ok ∧ b = .ok := by
  simp [Status.or]

theorem Status.or_cases (a b : Status) : a.or b = .ok ∨ a.or b = .fail := by
  unfold Status.or
  split
  · exact .inr rfl
  · exact .inl rfl

/-! ## The events of a PRINT and the latches they leave -/

theorem present_append (bind : Byte) (as bs : List Event) :
    Spec.present bind (as ++ bs) = (Spec.present bind as && Spec.present bind bs) := List.all_append

theorem dataTransmissions_append (bus : Byte) (as bs : List Byte) :
    Spec.dataTransmissions bus (as ++ bs) = Spec.dataTransmissions bus as ++ Spec.dataTransmissions bus bs := by
  simp only [← flatMap_txEvents_eq_dataTransmissions, List.flatMap_append]

/-- A transmission leaves nothing of the one before it in the same mode, the failing one included
(44_transmit_strobe.md R101). -/
theorem pinsAfter_pinsAfter (bus : Byte) (r : Bool) (b c : Byte) (p : Pins) :
    Spec.pinsAfter bus r c (Spec.pinsAfter bus r b p) = Spec.pinsAfter bus r c p := by
  unfold Spec.pinsAfter
  split <;> rfl

/-- The last byte of a PRINT stays on the latches; without bytes they keep their levels. -/
theorem drivenPins_dataTransmissions (bus : Byte) (bytes : List Byte) (p : Pins) :
    drivenPins p (Spec.dataTransmissions bus bytes) = bytes.getLast?.elim p (Spec.pinsAfter bus true · p) := by
  induction bytes generalizing p with
  | nil => rfl
  | cons b bs ih =>
    rw [Spec.dataTransmissions, drivenPins_append, drivenPins_transmission, ih, List.getLast?_cons]
    cases bs.getLast? with
    | none => rfl
    | some c => exact pinsAfter_pinsAfter bus true b c p

/-- The response to a PRINT follows its events, so the next request's events follow both. -/
theorem emitAll_respond (es : List Event) (st : Status) (v : Byte) (s : State) :
    emitAll es (respond st v s) = respond st v (emitAll es s) := rfl

/-- All that a PRINT does: the transmissions of its bytes, and its response. -/
theorem exec_print_eq_next_iff {bytes : List Byte} {s t : State} :
    exec (.print bytes) s = .next t ↔ Spec.present s.bind (Spec.dataTransmissions s.cfgBus bytes) = true ∧
      t = respond (if bytes = [] then .ok else txStatus s.cfgBus) 0x00#8
        (emitAll (Spec.dataTransmissions s.cfgBus bytes) s) := by
  rw [exec_eq_next_iff, stateAfter, answer, conclude_some]
  simp only [List.isEmpty_iff]
  rfl

/-! ## SET_DDRAM_ADDR -/

theorem setDdramAddrHeader_eq (addr : Byte) : hword 0xA#4 0#4 addr = 0xA000#16 ||| addr.setWidth 16 := by
  revert addr; decide

/-- The range check fails before any transmission, so no width and no missing primitive matters. -/
theorem exec_setDdramAddr_of_outOfRange {addr : Byte} (h : 0x7F < addr.toNat) (s : State) :
    exec (.setDdramAddr addr) s = .next (Spec.failed s .outOfRange) := by
  have hevents : Spec.operationEvents (.setDdramAddr addr) s = [] := if_pos h
  have hanswer : answer (.setDdramAddr addr) s = some ⟨.outOfRange, 0x00#8⟩ := by
    simp [answer, ddramMax_lt_iff, h]
  have hpresent : Spec.present s.bind (Spec.operationEvents (.setDdramAddr addr) s) = true := by rw [hevents]; rfl
  rw [exec_eq_answered hpresent hanswer, hevents]
  rfl

theorem exec_setDdramAddr_of_inRange {addr : Byte} {s : State} (h : addr.toNat ≤ 0x7F)
    (hpresent : Spec.present s.bind
      (Spec.transmission s.cfgBus false (BitVec.ofNat 8 (0x80 + addr.toNat))) = true) :
    exec (.setDdramAddr addr) s = .next (Spec.answered s
      (Spec.transmission s.cfgBus false (BitVec.ofNat 8 (0x80 + addr.toNat)))
      (Spec.pinsAfter s.cfgBus false (BitVec.ofNat 8 (0x80 + addr.toNat)) s.pins)
      (Spec.txStatus s.cfgBus) 0x00#8) := by
  have hrange : ¬ 0x7F < addr.toNat := by omega
  have hevents : Spec.operationEvents (.setDdramAddr addr) s =
      Spec.transmission s.cfgBus false (BitVec.ofNat 8 (0x80 + addr.toNat)) := if_neg hrange
  have hanswer : answer (.setDdramAddr addr) s = some ⟨txStatus s.cfgBus, 0x00#8⟩ := by
    simp [answer, ddramMax_lt_iff, hrange]
  rw [← hevents] at hpresent
  rw [exec_eq_answered hpresent hanswer, hevents, drivenPins_transmission, txStatus_eq_specTxStatus]
  rfl

end Sys2Proof.Machine

namespace Sys2Proof.Proofs

open Sys2Proof.Machine

/-- Settles O29: the two sides of the range check. -/
theorem setDdramAddrChecksThenSends : Obligations.SetDdramAddrChecksThenSends := by
  unfold Obligations.SetDdramAddrChecksThenSends
  intro addr s
  have hencode := congrArg (fun w => [w]) (setDdramAddrHeader_eq addr)
  exact ⟨hencode, fun h => exec_setDdramAddr_of_outOfRange h s, exec_setDdramAddr_of_inRange⟩

/-- Settles O30: a PRINT is the transmissions of its bytes and one response, and its last byte sets the latches. -/
theorem printSendsEveryByte : Obligations.PrintSendsEveryByte := by
  unfold Obligations.PrintSendsEveryByte
  intro bytes s hpresent
  rw [exec_print_eq_next_iff.2 ⟨hpresent, rfl⟩, emitAll, drivenPins_dataTransmissions]
  cases bytes.getLast? with
  | none => rfl
  | some b => rfl

/-- Settles O31: the first PRINT changes neither `BIND` nor `CFG_BUS`, so the joined text is sent as the two are. -/
theorem twoPrintsAreOneJoined : Obligations.TwoPrintsAreOneJoined := by
  unfold Obligations.TwoPrintsAreOneJoined
  intro as bs s t u hfirst hsecond
  obtain ⟨has, rfl⟩ := exec_print_eq_next_iff.1 hfirst
  obtain ⟨hbs, rfl⟩ := exec_print_eq_next_iff.1 hsecond
  have hjoined : Spec.present s.bind (Spec.dataTransmissions s.cfgBus (as ++ bs)) = true := by
    rw [dataTransmissions_append, present_append, has]
    exact hbs
  refine ⟨_, exec_print_eq_next_iff.2 ⟨hjoined, rfl⟩, ?_⟩
  rw [emitAll_respond, respond_cfgBus, emitAll_cfgBus, emitAll_emitAll, ← dataTransmissions_append]
  exact ⟨rfl, rfl, rfl⟩

/-- Settles O21: the general part is `OR` case by case; the codes are compared on `Ok` and `Fail`. -/
theorem statusOrMarksAnyFailure : Obligations.StatusOrMarksAnyFailure := by
  unfold Obligations.StatusOrMarksAnyFailure
  refine ⟨fun a b => ⟨Status.or_eq_ok_iff a b, Status.or_cases a b⟩, ?_⟩
  rintro _ _ (rfl | rfl) (rfl | rfl) <;> rfl

end Sys2Proof.Proofs

/-! `PULSE` and `TX`: their events, and the strobes of an operation (44_transmit_strobe.md R98 to R102). -/

namespace Sys2Proof.Machine

/-! ## The event lists of a transmission (44_transmit_strobe.md R102) -/

theorem length_transmission_bus8 (r : Bool) (b : Byte) : (Spec.transmission 0x01#8 r b).length = 9 := rfl

theorem length_transmission_bus4 (r : Bool) (b : Byte) : (Spec.transmission 0x00#8 r b).length = 16 := rfl

theorem legalBus_eq_false_iff (bus : Byte) : Spec.legalBus bus = false ↔ bus ≠ 0x01#8 ∧ bus ≠ 0x00#8 := by
  simp [Spec.legalBus, and_comm]

/-- Over a width that is not legal the mode pins are all that `TX` drives (44_transmit_strobe.md R97). -/
theorem transmission_of_not_legalBus {bus : Byte} (h : Spec.legalBus bus = false) (r : Bool) (b : Byte) :
    Spec.transmission bus r b = [.rs r, .rw false] := by
  obtain ⟨h8, h4⟩ := (legalBus_eq_false_iff bus).1 h
  rw [Spec.transmission, if_neg h8, if_neg h4]

/-! ## Strobes (44_transmit_strobe.md R100) -/

/-- The strobes of an operation that answers `st` and is to send `n` bytes (44_transmit_strobe.md R100). -/
def strobesFor (bus : Byte) (st : Status) (n : Nat) : Nat :=
  if st = .ok then n * (if bus = 0x01#8 then 1 else 2) else 0

@[simp] theorem strobesFor_zero (bus : Byte) (st : Status) : strobesFor bus st 0 = 0 := by
  simp [strobesFor]

theorem strobesFor_add (bus : Byte) (st : Status) (m n : Nat) :
    strobesFor bus st (m + n) = strobesFor bus st m + strobesFor bus st n := by
  unfold strobesFor
  split
  · exact Nat.add_mul ..
  · rfl

theorem strobesFor_of_ne_ok {st : Status} (h : st ≠ .ok) (bus : Byte) (n : Nat) : strobesFor bus st n = 0 :=
  if_neg h

@[simp] theorem strobes_nil : strobes [] = 0 := rfl

@[simp] theorem strobes_append (as bs : List Event) : strobes (as ++ bs) = strobes as + strobes bs :=
  List.countP_append

@[simp] theorem strobes_delay (d : Nat) (es : List Event) : strobes (.delay d :: es) = strobes es := rfl

/-- A transmission strobes once over 8 wires and twice over 4, and a failing one not at all. -/
@[simp] theorem strobes_transmission (bus : Byte) (r : Bool) (b : Byte) :
    strobes (Spec.transmission bus r b) = strobesFor bus (txStatus bus) 1 := by
  by_cases h8 : bus = 0x01#8
  · subst h8; rfl
  · by_cases h4 : bus = 0x00#8
    · subst h4; rfl
    · have hbus : Spec.legalBus bus = false := (legalBus_eq_false_iff bus).2 ⟨h8, h4⟩
      have hfail : txStatus bus = .fail := if_neg (by simp [Params.bus8, Params.bus4, h8, h4])
      rw [transmission_of_not_legalBus hbus, hfail]
      rfl

@[simp] theorem strobes_dataTransmissions (bus : Byte) (bytes : List Byte) :
    strobes (Spec.dataTransmissions bus bytes) = strobesFor bus (txStatus bus) bytes.length := by
  induction bytes with
  | nil => simp [Spec.dataTransmissions]
  | cons b bs ih =>
    rw [Spec.dataTransmissions, strobes_append, ih, strobes_transmission, List.length_cons, Nat.add_comm,
      ← strobesFor_add]

theorem strobes_initEvents {bus : Byte} (hbus : Spec.legalBus bus = true) (fs : Byte) :
    strobes (Spec.initEvents bus fs) = strobesFor bus (txStatus bus) 4 := by
  simp [specInitEvents_eq fs hbus, ← strobesFor_add]

/-- The strobes of a request are those of the bytes it sends, when its answer is `Ok` (44_transmit_strobe.md R100). -/
theorem strobes_operationEvents {i : Instr} {s : State} {r : Response} (hanswer : answer i s = some r) :
    strobes (Spec.operationEvents i s) = strobesFor s.cfgBus r.status (Spec.bytesSent i) := by
  cases i with
  | init =>
    cases hanswer
    simp only [Spec.operationEvents, Spec.bytesSent, ← initReady_iff, legalConfig_eq_configOk]
    by_cases hready : initReady s = true
    · by_cases hconfig : configOk s = true
      · simp [hready, hconfig, strobes_initEvents (legalBus_of_configOk hconfig), txStatus_of_configOk hconfig]
      · simp [hready, hconfig, strobesFor_of_ne_ok]
    · simp [hready, strobesFor_of_ne_ok]
  | functionSet =>
    cases hanswer
    simp only [Spec.operationEvents, Spec.bytesSent, legalConfig_eq_configOk]
    by_cases hconfig : configOk s = true
    · simp [hconfig, txStatus_of_configOk hconfig]
    · simp [hconfig, strobesFor_of_ne_ok]
  | setDdramAddr addr =>
    cases hanswer
    simp only [Spec.operationEvents, Spec.bytesSent, ddramMax_lt_iff]
    split
    · simp [strobesFor_of_ne_ok]
    · simp
  | print bytes =>
    cases hanswer
    cases bytes with
    | nil => simp [Spec.operationEvents, Spec.bytesSent, Spec.dataTransmissions]
    | cons b bs => simp [Spec.operationEvents, Spec.bytesSent]
  | cfgw | regrd => simp [Spec.operationEvents, Spec.bytesSent]
  | clear | home | entryModeSet | displayOn | displayOff | cursorOn | cursorOff | blinkOn | blinkOff =>
    cases hanswer
    simp [Spec.operationEvents, Spec.bytesSent]
  | _ => cases hanswer

/-! ## The answer of a request, read back from its response -/

/-- The response a request adds is its answer (30_encoding.md R57). -/
theorem answer_of_responses {i : Instr} {s t : State} {r : Response} (hhost : i.isHost = true)
    (hexec : exec i s = .next t) (hresponses : t.responses = s.responses ++ [r]) : answer i s = some r := by
  obtain ⟨-, rfl⟩ := exec_eq_next_iff.1 hexec
  obtain ⟨a, ha⟩ := answer_isSome hhost s
  simpa [ha] using hresponses

theorem newEvents_of_exec {i : Instr} {s t : State} (hexec : exec i s = .next t) :
    Spec.newEvents s t = Spec.operationEvents i s := by
  obtain ⟨-, rfl⟩ := exec_eq_next_iff.1 hexec
  rw [Spec.newEvents, stateAfter_events, List.drop_left]

end Sys2Proof.Machine

namespace Sys2Proof.Proofs

open Sys2Proof.Machine

/-- Settles O19: the counts and times by width; `TX` appends the list of its width and drives the latches with it. -/
theorem transmitterEmitsTransmission : Obligations.TransmitterEmitsTransmission := by
  unfold Obligations.TransmitterEmitsTransmission
  refine ⟨fun r b bus => ⟨?_, ?_, fun hbus => ?_⟩, fun m b s => ?_⟩
  · rintro rfl
    exact ⟨length_transmission_bus8 r b, minTime_transmission_bus8 r b⟩
  · rintro rfl
    exact ⟨length_transmission_bus4 r b, minTime_transmission_bus4 r b⟩
  · rw [transmission_of_not_legalBus hbus]
    exact ⟨rfl, rfl⟩
  · rw [tx_eq, txStatus_eq_specTxStatus, txEvents_eq_transmission, rsLevel_eq_decide, emitAll, drivenPins_transmission]

/-- Settles O47: a request strobes for the bytes it sends when its answer is `Ok`, and that answer is its response. -/
theorem strobeCounts : Obligations.StrobeCounts := by
  unfold Obligations.StrobeCounts
  intro i s t st v hhost hexec hresponses
  rw [newEvents_of_exec hexec]
  exact strobes_operationEvents (answer_of_responses hhost hexec hresponses)

/-- Settles O52: every list of events an instruction emits is whole pulses. -/
theorem pulsesAreNeverSplit : Obligations.PulsesAreNeverSplit := by
  unfold Obligations.PulsesAreNeverSplit
  intro i s t hexec
  obtain ⟨hwhole, -⟩ := busList_newEvents hexec
  exact hwhole

/-- Settles O18: `PULSE` appends its six events, and the last of them on the strobe is `E(0)`. -/
theorem pulseIsFixed : Obligations.PulseIsFixed := by
  unfold Obligations.PulseIsFixed
  intro s
  rw [pulse_eq]
  rfl

end Sys2Proof.Proofs

/-! FUNCTION_SET and ENTRY_MODE_SET (45_function_set_entry_mode.md R103 to R107). -/

namespace Sys2Proof.Machine

/-! ## FUNCTION_SET -/

/-- A byte sent over a legal width stays on the latches (44_transmit_strobe.md R101). -/
theorem pinsAfter_of_legalBus {bus : Byte} (h : Spec.legalBus bus = true) (r : Bool) (b : Byte) (p : Pins) :
    Spec.pinsAfter bus r b p = ⟨r, false, false, b⟩ := by
  have hbus : bus = 0x01#8 ∨ bus = 0x00#8 := by simpa [Spec.legalBus, or_comm] using h
  exact if_pos hbus

/-- A legal configuration has a legal width, so the byte reaches the latches and the answer is `Ok`
(45_function_set_entry_mode.md R104, R105). -/
theorem exec_functionSet_of_configOk {s : State} (hconfig : configOk s = true)
    (hpresent : Spec.present s.bind
      (Spec.transmission s.cfgBus false (BitVec.ofNat 8 (0x20 + Spec.fssNumber s))) = true) :
    exec .functionSet s = .next { Spec.answered s
      (Spec.transmission s.cfgBus false (BitVec.ofNat 8 (0x20 + Spec.fssNumber s)))
      ⟨false, false, false, BitVec.ofNat 8 (0x20 + Spec.fssNumber s)⟩ .ok 0x00#8 with
      fss := BitVec.ofNat 5 (Spec.fssNumber s) } := by
  have hevents : Spec.operationEvents .functionSet s =
      Spec.transmission s.cfgBus false (BitVec.ofNat 8 (0x20 + Spec.fssNumber s)) :=
    if_pos ((legalConfig_eq_configOk s).trans hconfig)
  have hanswer : answer .functionSet s = some ⟨.ok, 0x00#8⟩ := by rw [answer, if_pos hconfig]
  have hregs : regsAfter .functionSet s = { s with fss := BitVec.ofNat 5 (Spec.fssNumber s) } := by
    rw [regsAfter, if_pos hconfig, fssOf_eq_ofNat hconfig]
  rw [← hevents] at hpresent
  rw [exec_eq_answered hpresent hanswer, hevents, hregs, drivenPins_transmission,
    pinsAfter_of_legalBus (legalBus_of_configOk hconfig)]
  rfl

/-- The test of the parameters comes first, so neither an event nor `FSS` is written, and no missing primitive matters
(45_function_set_entry_mode.md R103). -/
theorem exec_functionSet_of_not_configOk {s : State} (hconfig : configOk s = false) :
    exec .functionSet s = .next (Spec.failed s .invalidArgument) := by
  have hevents : Spec.operationEvents .functionSet s = [] := by
    simp [Spec.operationEvents, legalConfig_eq_configOk, hconfig]
  have hanswer : answer .functionSet s = some ⟨.invalidArgument, 0x00#8⟩ := by simp [answer, hconfig]
  have hregs : regsAfter .functionSet s = s := by simp [regsAfter, hconfig]
  have hpresent : Spec.present s.bind (Spec.operationEvents .functionSet s) = true := by rw [hevents]; rfl
  rw [exec_eq_answered hpresent hanswer, hevents, hregs]
  rfl

/-! ## ENTRY_MODE_SET -/

theorem encode_entryModeSet (id sh : BitVec 1) :
    encode (.entryModeSet id sh) = [BitVec.ofNat 16 (0x3000 + 2 * id.toNat + sh.toNat)] := by
  revert id sh; decide

theorem packEms_eq_ofNat (id sh : BitVec 1) : packEms id sh = BitVec.ofNat 2 (2 * id.toNat + sh.toNat) := by
  rw [← packEms_toNat, BitVec.ofNat_toNat, BitVec.setWidth_eq]

/-- The cache is written before the transmission, whatever its status (45_function_set_entry_mode.md R107). -/
theorem exec_entryModeSet {id sh : BitVec 1} {s : State}
    (hpresent : Spec.present s.bind
      (Spec.transmission s.cfgBus false (BitVec.ofNat 8 (0x04 + 2 * id.toNat + sh.toNat))) = true) :
    exec (.entryModeSet id sh) s = .next { Spec.answered s
      (Spec.transmission s.cfgBus false (BitVec.ofNat 8 (0x04 + 2 * id.toNat + sh.toNat)))
      (Spec.pinsAfter s.cfgBus false (BitVec.ofNat 8 (0x04 + 2 * id.toNat + sh.toNat)) s.pins)
      (Spec.txStatus s.cfgBus) 0x00#8 with ems := BitVec.ofNat 2 (2 * id.toNat + sh.toNat) } := by
  have hevents : Spec.operationEvents (.entryModeSet id sh) s =
      Spec.transmission s.cfgBus false (BitVec.ofNat 8 (0x04 + 2 * id.toNat + sh.toNat)) := rfl
  have hanswer : answer (.entryModeSet id sh) s = some ⟨txStatus s.cfgBus, 0x00#8⟩ := rfl
  rw [← hevents] at hpresent
  rw [exec_eq_answered hpresent hanswer, hevents, regsAfter, packEms_eq_ofNat, drivenPins_transmission,
    txStatus_eq_specTxStatus]
  rfl

end Sys2Proof.Machine

namespace Sys2Proof.Proofs

open Sys2Proof.Machine

/-- Settles O32: the header is `0xC000`, and the four tests pass before the packed bits are cached and sent. -/
theorem functionSetPacksAndSends : Obligations.FunctionSetPacksAndSends := by
  unfold Obligations.FunctionSetPacksAndSends
  refine ⟨rfl, fun s hlegal hpresent => ?_⟩
  rw [legalConfig_eq_configOk] at hlegal
  exact exec_functionSet_of_configOk hlegal hpresent

/-- Settles O33: one of the four tests fails before anything is done. -/
theorem functionSetRejectsBadParameter : Obligations.FunctionSetRejectsBadParameter := by
  unfold Obligations.FunctionSetRejectsBadParameter
  intro s hillegal
  rw [legalConfig_eq_configOk] at hillegal
  exact exec_functionSet_of_not_configOk hillegal

/-- Settles O34: the two operand bits are read as a number in the header, the byte and the cache alike. -/
theorem entryModeSetCachesAndSends : Obligations.EntryModeSetCachesAndSends := by
  unfold Obligations.EntryModeSetCachesAndSends
  exact fun id sh s => ⟨encode_entryModeSet id sh, exec_entryModeSet⟩

end Sys2Proof.Proofs

/-! CFGW and REGRD, and which operations write each register (46_register_access.md R109 to R111). -/

namespace Sys2Proof

/-- A header word as the spec's tables write it: the fields shifted to their places (30_encoding.md R54, R55). -/
theorem hword_eq_or (op idx : BitVec 4) (arg : Byte) :
    hword op idx arg = op.setWidth 16 <<< 12 ||| idx.setWidth 16 <<< 8 ||| arg.setWidth 16 :=
  (BitVec.setWidth_eq _).symm.trans BitVec.setWidth_append_append_eq_shiftLeft_setWidth_or

end Sys2Proof

namespace Sys2Proof.Machine

open Sys2Proof.Safety

/-! ## The register index space (10_state.md R29) -/

theorem regAt_eq_none_iff (idx : BitVec 4) : regAt idx = none ↔ 7 < idx.toNat := by
  revert idx; decide

/-- The host can write exactly the four configuration registers. -/
theorem bind_writeReg_eq_none_iff (idx : BitVec 4) (val : Byte) (s : State) :
    (regAt idx).bind (writeReg · val s) = none ↔ 3 < idx.toNat := by
  unfold regAt
  split
  case h_9 => simp only [Option.bind_none, true_iff, imp_false] at *; omega
  all_goals simp [writeReg, *]

/-! ## CFGW -/

/-- A writable register takes any value (46_register_access.md R109). -/
theorem exec_cfgw_of_writeReg {idx : BitVec 4} {r : Reg} {val : Byte} {s t : State} (hreg : regAt idx = some r)
    (hwrite : writeReg r val s = some t) :
    exec (.cfgw idx val) s = .next (Spec.answered t [] s.pins .ok 0x00#8) := by
  have hanswer : answer (.cfgw idx val) s = some ⟨.ok, 0x00#8⟩ := by simp [answer, hreg, hwrite]
  have hregs : regsAfter (.cfgw idx val) s = t := by simp [regsAfter, hreg, hwrite]
  rw [exec_eq_answered rfl hanswer, hregs]
  rfl

/-- An index of a cache, of `BIND` or of no register: nothing is written (46_register_access.md R109, R111). -/
theorem exec_cfgw_of_not_writable {idx : BitVec 4} {val : Byte} {s : State}
    (h : (regAt idx).bind (writeReg · val s) = none) :
    exec (.cfgw idx val) s = .next (Spec.failed s .invalidArgument) := by
  have hanswer : answer (.cfgw idx val) s = some ⟨.invalidArgument, 0x00#8⟩ := by simp [answer, h]
  have hregs : regsAfter (.cfgw idx val) s = s := by simp [regsAfter, h]
  rw [exec_eq_answered rfl hanswer, hregs]
  rfl

/-! ## REGRD -/

/-- REGRD writes nothing and emits nothing, whether its index names a register or not (46_register_access.md R110). -/
theorem exec_regrd (idx : BitVec 4) (s : State) :
    exec (.regrd idx) s = .next (if idx.toNat ≤ 7 then Spec.answered s [] s.pins .ok (Spec.indexValue s idx.toNat)
      else Spec.failed s .invalidArgument) := by
  rw [exec_eq_answered (s := s) (i := .regrd idx) rfl rfl]
  rcases hreg : regAt idx with _ | r
  · have hidx : ¬ idx.toNat ≤ 7 := Nat.not_le.2 ((regAt_eq_none_iff idx).1 hreg)
    rw [if_neg hidx]
    rfl
  · have hidx : idx.toNat ≤ 7 := by
      rw [← Nat.not_lt, ← regAt_eq_none_iff, hreg]
      nofun
    rw [if_pos hidx, ← readReg_of_regAt hreg s]
    rfl

/-! ## The writers of each register (46_register_access.md R111) -/

/-- The instructions that may write a register: INIT and the operations of files 40, 42 and 45 for the caches, CFGW
for the configuration, none for `BIND` (10_state.md section 2, R27). -/
def IsWriter (r : Reg) (i : Instr) : Prop :=
  match r with
  | .cfgLines | .cfgFont | .cfgBus | .cfgAlpha => ∃ idx val, i = .cfgw idx val ∧ idx.toNat ≤ 3
  | .ems => i = .init ∨ ∃ id sh, i = .entryModeSet id sh
  | .dcs => i = .init ∨ Spec.isDisplayOp i = true
  | .fss => i = .init ∨ i = .functionSet
  | .bind => False

theorem isWriter_cfgw {idx : BitVec 4} {v : Byte} {r : Reg} {s : State} (hreg : regAt idx = some r)
    (hwrite : (writeReg r 0#8 s).isSome = true) : IsWriter r (.cfgw idx v) := by
  have hidx : idx.toNat ≤ 3 := by
    rw [← Nat.not_lt, ← bind_writeReg_eq_none_iff idx 0#8 s, hreg]
    exact Option.isSome_iff_ne_none.1 hwrite
  cases r with
  | cfgLines | cfgFont | cfgBus | cfgAlpha => exact ⟨idx, v, rfl, hidx⟩
  | ems | dcs | fss | bind => cases hwrite

/-- Every register an instruction writes has it among its writers. -/
theorem isWriter_of_mem_writes {i : Instr} {s : State} {r : Reg} (h : r ∈ writes i s) : IsWriter r i := by
  cases i with
  | init =>
    simp only [writes] at h
    split at h
    · simp only [List.mem_cons, List.not_mem_nil, or_false] at h
      rcases h with rfl | rfl | rfl <;> exact .inl rfl
    · cases h
  | entryModeSet id sh =>
    obtain rfl := List.mem_singleton.1 h
    exact .inr ⟨id, sh, rfl⟩
  | displayOn | displayOff | cursorOn | cursorOff | blinkOn | blinkOff =>
    obtain rfl := List.mem_singleton.1 h
    exact .inr rfl
  | functionSet =>
    simp only [writes] at h
    split at h
    · obtain rfl := List.mem_singleton.1 h
      exact .inr rfl
    · cases h
  | cfgw idx val =>
    rw [writes, Option.mem_toList, Option.filter_eq_some_iff] at h
    obtain ⟨hreg, hwrite⟩ := h
    exact isWriter_cfgw hreg hwrite
  | _ => cases h

/-- Only its writers change a register. -/
theorem isWriter_of_readReg_ne {i : Instr} {s t : State} {r : Reg} (hexec : exec i s = .next t)
    (h : readReg r t ≠ readReg r s) : IsWriter r i := by
  obtain ⟨-, rfl⟩ := exec_eq_next_iff.1 hexec
  rw [readReg_stateAfter] at h
  exact isWriter_of_mem_writes (not_imp_comm.1 readReg_regsAfter_of_not_mem_writes h)

theorem ems_eq_of_readReg_eq {s t : State} (h : readReg .ems s = readReg .ems t) : s.ems = t.ems := by
  have hinj : ∀ a b : BitVec 2, a.setWidth 8 = b.setWidth 8 → a = b := by decide
  exact hinj _ _ h

theorem fss_eq_of_readReg_eq {s t : State} (h : readReg .fss s = readReg .fss t) : s.fss = t.fss := by
  have hinj : ∀ a b : BitVec 5, a.setWidth 8 = b.setWidth 8 → a = b := by decide
  exact hinj _ _ h

end Sys2Proof.Machine

namespace Sys2Proof.Proofs

open Sys2Proof.Machine

/-- Settles O35: the host writes the registers of index 0 to 3, and any other index names none it can write. -/
theorem cfgwWritesConfiguration : Obligations.CfgwWritesConfiguration := by
  unfold Obligations.CfgwWritesConfiguration
  intro idx val s
  refine ⟨congrArg (fun w => [w]) (hword_eq_or 0xD#4 idx val), ?_⟩
  split_ifs with hlines hfont hbus halpha
  · rw [hlines, exec_cfgw_of_writeReg (r := .cfgLines) rfl rfl]; rfl
  · rw [hfont, exec_cfgw_of_writeReg (r := .cfgFont) rfl rfl]; rfl
  · rw [hbus, exec_cfgw_of_writeReg (r := .cfgBus) rfl rfl]; rfl
  · rw [halpha, exec_cfgw_of_writeReg (r := .cfgAlpha) rfl rfl]; rfl
  · have hidx : 3 < idx.toNat := by bv_omega
    exact exec_cfgw_of_not_writable ((bind_writeReg_eq_none_iff idx val s).2 hidx)

/-- Settles O36: the register at the index is read, and an index that names none fails. -/
theorem regrdAnswersRegister : Obligations.RegrdAnswersRegister := by
  unfold Obligations.RegrdAnswersRegister
  intro idx s
  refine ⟨?_, exec_regrd idx s⟩
  rw [encode, hword_eq_or]
  simp

/-- Settles O42: an instruction changes only registers it writes, and each register has its writers. -/
theorem eachRegisterHasItsWriters : Obligations.EachRegisterHasItsWriters := by
  unfold Obligations.EachRegisterHasItsWriters
  intro i s t hexec
  have hwriter : ∀ r, readReg r t ≠ readReg r s → IsWriter r i := fun r => isWriter_of_readReg_ne hexec
  refine ⟨fun h => hwriter .ems (mt ems_eq_of_readReg_eq h), fun h => hwriter .dcs (mt dcs_eq_of_readReg_eq h),
    fun h => hwriter .fss (mt fss_eq_of_readReg_eq h), ?_⟩
  rintro (h | h | h | h)
  · exact hwriter .cfgLines h
  · exact hwriter .cfgFont h
  · exact hwriter .cfgBus h
  · exact hwriter .cfgAlpha h

end Sys2Proof.Proofs

/-! What a failed request leaves (60_exceptions.md R117 to R121). -/

namespace Sys2Proof.Machine

open Sys2Proof.Safety

/-! ## A transmission that fails (44_transmit_strobe.md R97) -/

theorem not_legalBus_of_txStatus_ne_ok {bus : Byte} (h : txStatus bus ≠ .ok) : Spec.legalBus bus = false := by
  rw [legalBus_eq_false_iff]
  exact not_or.1 fun hbus => h (if_pos hbus)

theorem txStatus_eq_fail_of_ne_ok {bus : Byte} (h : txStatus bus ≠ .ok) : txStatus bus = .fail :=
  (txStatus_cases bus).resolve_left h

/-- Over a width that is not legal a PRINT drives the mode pins once for each byte (60_exceptions.md R121). -/
theorem dataTransmissions_of_not_legalBus {bus : Byte} (h : Spec.legalBus bus = false) (bytes : List Byte) :
    Spec.dataTransmissions bus bytes = bytes.flatMap fun _ => [.rs true, .rw false] := by
  induction bytes with
  | nil => rfl
  | cons b bs ih => rw [Spec.dataTransmissions, ih, transmission_of_not_legalBus h, List.flatMap_cons]

/-! ## The events of a failed request -/

/-- The events column of 60_exceptions.md R121: the operation's own check fails before its transmission, or the
transmission fails after its mode pins. -/
theorem operationEvents_of_failed {i : Instr} {s : State} {r : Response} (hanswer : answer i s = some r)
    (hfailed : r.status ≠ .ok) : Spec.operationEvents i s = Spec.failEvents s i r.status := by
  cases i with
  | init =>
    cases hanswer
    simp only [Spec.operationEvents, ← initReady_iff, legalConfig_eq_configOk]
    by_cases hready : initReady s = true
    · have hconfig : configOk s = false := by simpa [hready] using hfailed
      simp [hready, hconfig, Spec.failEvents, ← initReady_iff]
    · simp [hready, Spec.failEvents, ← initReady_iff]
  | functionSet =>
    cases hanswer
    have hconfig : configOk s = false := by simpa using hfailed
    simp [Spec.operationEvents, legalConfig_eq_configOk, hconfig, Spec.failEvents]
  | setDdramAddr addr =>
    cases hanswer
    simp only [Spec.operationEvents, ddramMax_lt_iff] at hfailed ⊢
    split_ifs at hfailed ⊢
    · rfl
    · rw [transmission_of_not_legalBus (not_legalBus_of_txStatus_ne_ok hfailed), txStatus_eq_fail_of_ne_ok hfailed]
      rfl
  | print bytes =>
    cases hanswer
    cases bytes with
    | nil => exact absurd rfl hfailed
    | cons b bs =>
      simp only [List.isEmpty_cons, Bool.false_eq_true, if_false] at hfailed ⊢
      rw [Spec.operationEvents, dataTransmissions_of_not_legalBus (not_legalBus_of_txStatus_ne_ok hfailed),
        txStatus_eq_fail_of_ne_ok hfailed]
      rfl
  | cfgw idx val =>
    cases hanswer
    rw [if_neg (fun h => hfailed (if_pos h))]
    rfl
  | regrd idx =>
    cases hanswer
    cases hidx : regAt idx with
    | none => rfl
    | some q => rw [hidx] at hfailed; exact absurd rfl hfailed
  | clear | home | entryModeSet | displayOn | displayOff | cursorOn | cursorOff | blinkOn | blinkOff =>
    cases hanswer
    simp only [Spec.operationEvents, transmission_of_not_legalBus (not_legalBus_of_txStatus_ne_ok hfailed),
      txStatus_eq_fail_of_ne_ok hfailed]
    rfl
  | _ => cases hanswer

/-- Without a strobe nothing is latched (44_transmit_strobe.md R100, 60_exceptions.md R118). -/
theorem transfers_eq_nil_of_strobes_eq_zero {es : List Event} (h : strobes es = 0) (p : Pins) :
    transfers p es = [] := by
  induction es generalizing p with
  | nil => rfl
  | cons e es ih =>
    simp only [strobes, List.countP_cons, Nat.add_eq_zero_iff, decide_eq_true_eq, ite_eq_right_iff, one_ne_zero,
      imp_false] at h
    obtain ⟨hes, he⟩ := h
    rw [transfers, if_neg he, ih hes]

/-! ## The registers of a failed request -/

/-- What a failed request has written: `DCS` by a display operation, `EMS` by ENTRY_MODE_SET (60_exceptions.md R121). -/
theorem eq_dcs_or_ems_of_mem_writes_of_failed {i : Instr} {s : State} {a : Response} {r : Reg}
    (hanswer : answer i s = some a) (hfailed : a.status ≠ .ok) (hr : r ∈ writes i s) :
    (r = .dcs ∧ Spec.isDisplayOp i = true) ∨ (r = .ems ∧ ∃ id sh, i = .entryModeSet id sh) := by
  cases i with
  | init =>
    cases hanswer
    rw [writes, if_neg (fun h => hfailed (if_pos h))] at hr
    cases hr
  | functionSet =>
    cases hanswer
    rw [writes, if_neg (fun h => hfailed (if_pos h))] at hr
    cases hr
  | cfgw idx val =>
    cases hanswer
    rw [writes, Option.mem_toList, Option.filter_eq_some_iff] at hr
    obtain ⟨hidx, hwritable⟩ := hr
    cases r with
    | cfgLines | cfgFont | cfgBus | cfgAlpha => exact absurd (by simp [hidx, writeReg]) hfailed
    | ems | dcs | fss | bind => cases hwritable
  | entryModeSet id sh => exact .inr ⟨List.mem_singleton.1 hr, id, sh, rfl⟩
  | displayOn | displayOff | cursorOn | cursorOff | blinkOn | blinkOff =>
    exact .inl ⟨List.mem_singleton.1 hr, rfl⟩
  | _ => cases hr

/-- Every other register keeps its value when a request fails. -/
theorem readReg_of_failed {i : Instr} {s t : State} {a : Response} (hexec : exec i s = .next t)
    (hanswer : answer i s = some a) (hfailed : a.status ≠ .ok) (r : Reg)
    (hdcs : r = .dcs → Spec.isDisplayOp i = false) (hems : r = .ems → ∀ id sh, i ≠ .entryModeSet id sh) :
    readReg r t = readReg r s := by
  obtain ⟨-, rfl⟩ := exec_eq_next_iff.1 hexec
  rw [readReg_stateAfter]
  refine readReg_regsAfter_of_not_mem_writes fun hr => ?_
  obtain ⟨h, hdisplay⟩ | ⟨h, id, sh, hentry⟩ := eq_dcs_or_ems_of_mem_writes_of_failed hanswer hfailed hr
  · exact Bool.false_ne_true ((hdcs h).symm.trans hdisplay)
  · exact hems h id sh hentry

end Sys2Proof.Machine

namespace Sys2Proof.Proofs

open Sys2Proof.Machine

/-- Settles O44: a failed request has the events of the table, and it can have written only `DCS` or `EMS`, which are
written before the transmission. -/
theorem failedRequestEffects : Obligations.FailedRequestEffects := by
  unfold Obligations.FailedRequestEffects
  intro i s t st v hhost hexec hresponses hfailed
  have hanswer := answer_of_responses hhost hexec hresponses
  have hkept := readReg_of_failed hexec hanswer hfailed
  refine ⟨?_, hkept .cfgLines nofun nofun, hkept .cfgFont nofun nofun, hkept .cfgBus nofun nofun,
    hkept .cfgAlpha nofun nofun, fss_eq_of_readReg_eq (hkept .fss nofun nofun),
    fun hdisplay => dcs_eq_of_readReg_eq (hkept .dcs (fun _ => hdisplay) nofun), ?_,
    fun hentry => ems_eq_of_readReg_eq (hkept .ems nofun fun _ => hentry), ?_⟩
  · obtain ⟨-, rfl⟩ := exec_eq_next_iff.1 hexec
    rw [stateAfter_events, operationEvents_of_failed hanswer hfailed]
  · rintro r hrow rfl
    obtain ⟨-, -, hnew, -⟩ := row_of_mem_displayOps hrow
    rw [dcs_of_exec_displayOp hrow hexec, hnew]
  · rintro id sh rfl
    obtain ⟨-, rfl⟩ := exec_eq_next_iff.1 hexec
    exact packEms_eq_ofNat id sh

/-- Settles O45: a failed request has no strobe (O47), and without a strobe no byte is received. -/
theorem failureLatchesNothing : Obligations.FailureLatchesNothing := by
  unfold Obligations.FailureLatchesNothing
  intro i s t st v hhost hexec hresponses hfailed
  have hstrobes : strobes (Spec.newEvents s t) = 0 := by
    rw [strobeCounts i s t st v hhost hexec hresponses, if_neg hfailed]
  refine ⟨hstrobes, ?_⟩
  rw [newEvents_of_exec hexec] at hstrobes
  rw [receivedBytes_of_exec hexec, transfers_eq_nil_of_strobes_eq_zero hstrobes, busBytes_nil]

/-- Settles O46: an address out of range and an illegal line count fail before any transmission, and an illegal width
is itself an illegal configuration, which FUNCTION_SET and INIT check before they transmit. -/
theorem ownCheckComesBeforeTransmission : Obligations.OwnCheckComesBeforeTransmission := by
  unfold Obligations.OwnCheckComesBeforeTransmission
  intro s hbus
  have hconfig : configOk s = false := by
    rw [← Bool.not_eq_true] at hbus ⊢
    exact mt legalBus_of_configOk hbus
  refine ⟨fun addr haddr => exec_setDdramAddr_of_outOfRange haddr s, exec_functionSet_of_not_configOk hconfig,
    fun hlines => ?_, fun hbind hlines => ?_⟩
  · exact exec_init_of_not_initReady (by rw [initReady, linesOk_eq_legalLines, hlines, Bool.and_false])
  · exact exec_init_of_not_configOk ((initReady_iff s).2 ⟨hbind, hlines⟩) hconfig

end Sys2Proof.Proofs

/-! Reset, an abandoned operation, and the waiting block (70_reset_and_hazards.md R131 to R133). -/

namespace Sys2Proof.Machine

open Sys2Proof.Safety

/-! ## A step while `RST` is active (70_reset_and_hazards.md R131, R132) -/

theorem step_of_rst {s : State} (h : s.rst = true) : step s = .next (holdReset s) := if_pos h

@[simp] theorem holdReset_pins (s : State) : (holdReset s).pins = s.pins := rfl
@[simp] theorem holdReset_events (s : State) : (holdReset s).events = s.events := rfl

theorem idle_release_holdReset (s : State) : Idle (setRst false (holdReset s)) := ⟨rfl, rfl, rfl⟩

/-! ## A step abandoned in the middle (70_reset_and_hazards.md R131, log 9) -/

/-- Where `RST` meets a step from `s` to `t` after `k` of its events. -/
def cutAt (k : Nat) (s t : State) : State :=
  { s with
    rst := true, requests := t.requests, events := s.events ++ (Spec.newEvents s t).take k,
    pins := drivenPins s.pins ((Spec.newEvents s t).take k) }

/-- Only a step that would answer a next state can be met in the middle. -/
theorem resetDuring_eq_next_iff {k : Nat} {s u : State} :
    resetDuring k s = .next u ↔ ∃ t, step s = .next t ∧ u = holdReset (cutAt k s t) := by
  unfold resetDuring
  cases step s with
  | next t => simp [cutAt, Spec.newEvents, eq_comm]
  | fault f => simp
  | refused r => simp

/-- The latches are where the events before the cut drove them, and these are events of the step. -/
theorem cutInv_holdReset_cutAt {s t : State} (k : Nat) (hinv : CutInv s) (hstep : step s = .next t) :
    CutInv (holdReset (cutAt k s t)) := by
  obtain ⟨-, -, hread, hpins⟩ := hinv
  obtain ⟨es, ⟨-, hes⟩, hevents, -⟩ := step_events hstep
  have hnew : Spec.newEvents s t = es := by rw [Spec.newEvents, hevents, List.drop_left]
  refine ⟨rfl, rfl, ?_, ?_⟩
  · rw [neverReads_iff] at hread ⊢
    rw [holdReset_events, cutAt, hnew, List.mem_append, not_or]
    exact ⟨hread, mt List.mem_of_mem_take hes⟩
  · rw [holdReset_pins, holdReset_events, cutAt, drivenPins_append, ← hpins]

/-- An idle block without a word waits (70_reset_and_hazards.md R133). -/
theorem step_of_noWord {s : State} (hrst : s.rst = false) (htx : s.txByte = none)
    (h : decode (portWords s) = .error .noWord) : step s = .next s := by
  simp [step, stepRequest, hrst, htx, h]

end Sys2Proof.Machine

namespace Sys2Proof.Proofs

open Sys2Proof.Machine Sys2Proof.Safety

/-- Settles O2: both a step with `RST` active and an abandoned step end in `holdReset`, which takes no word, emits
nothing, answers nothing, and is kept by a further step. -/
theorem activeResetAbandonsAndIdles : Obligations.ActiveResetAbandonsAndIdles := by
  unfold Obligations.ActiveResetAbandonsAndIdles
  refine ⟨fun s hrst => ?_, fun k s t hstep => ?_⟩
  · exact ⟨holdReset s, step_of_rst hrst, rfl, rfl, rfl, hrst, rfl, idle_release_holdReset s⟩
  · refine ⟨holdReset (cutAt k s t), resetDuring_eq_next_iff.2 ⟨t, hstep, rfl⟩, rfl, rfl, rfl, rfl, ?_,
      idle_release_holdReset _⟩
    rw [step_of_rst rfl, holdReset_idem]

/-- Settles O59: an abandoned step ends in `holdReset` with the latches driven by the events before the cut; steps and
moves of the outside keep `CutInv` as in O55 and O56. -/
theorem cutInvariantIsKept : Obligations.CutInvariantIsKept := by
  unfold Obligations.CutInvariantIsKept
  refine fun s hinv => ⟨fun k u hcut => ?_, fun t => cutInv_step hinv, fun w l =>
    ⟨cutInv_present w hinv, cutInv_setRst l hinv⟩⟩
  obtain ⟨t, hstep, rfl⟩ := resetDuring_eq_next_iff.1 hcut
  exact ⟨cutInv_holdReset_cutAt k hinv hstep, rfl, rfl⟩

/-- Settles O3: without a word there is nothing to decode. -/
theorem idleBlockWaits : Obligations.IdleBlockWaits := by
  unfold Obligations.IdleBlockWaits
  intro s ⟨hrst, htx, hacc⟩ hreq
  refine step_of_noWord hrst htx ?_
  rw [portWords_of_accepted_nil hacc, hreq, decode]

/-- Settles O54: after reset the port is idle, and the view of an empty event list is the latches it starts from. -/
theorem resetMeetsInvariant : Obligations.ResetMeetsInvariant := by
  unfold Obligations.ResetMeetsInvariant
  exact ⟨⟨rfl, rfl, rfl, rfl⟩, rfl⟩

end Sys2Proof.Proofs

/-! How long an operation takes and how much it emits (70_reset_and_hazards.md R141, R145). -/

namespace Sys2Proof.Machine

/-! ## Minimum times (70_reset_and_hazards.md R145) -/

/-- The time of one transmission over a legal width (44_transmit_strobe.md R102). -/
def txTime (bus : Byte) : Nat := if bus = 0x01#8 then 102 else 204

theorem minTime_nil : minTime [] = 0 := rfl

theorem minTime_delay (d : Nat) : minTime [.delay d] = d := Nat.add_zero d

theorem minTime_transmission {bus : Byte} (h : txStatus bus = .ok) (r : Bool) (b : Byte) :
    minTime (Spec.transmission bus r b) = txTime bus := by
  have hbus : bus = 0x01#8 ∨ bus = 0x00#8 := by
    by_contra hnot
    cases (if_neg hnot).symm.trans h
  rcases hbus with rfl | rfl
  · exact minTime_transmission_bus8 r b
  · exact minTime_transmission_bus4 r b

theorem minTime_dataTransmissions {bus : Byte} (h : txStatus bus = .ok) (bytes : List Byte) :
    minTime (Spec.dataTransmissions bus bytes) = bytes.length * txTime bus := by
  induction bytes with
  | nil => rw [Spec.dataTransmissions, minTime_nil, List.length_nil, Nat.zero_mul]
  | cons b bs ih =>
    rw [Spec.dataTransmissions, minTime_append, minTime_transmission h, ih, List.length_cons, Nat.succ_mul,
      Nat.add_comm]

theorem timeOf_init (bus : Byte) : Spec.timeOf bus .init = 66000 + 4 * txTime bus := by
  simp only [Spec.timeOf, txTime]
  omega

/-- A request that answers `Ok` takes the time of its delays and its transmissions. -/
theorem minTime_operationEvents_of_ok {i : Instr} {s : State} {r : Response} (hanswer : answer i s = some r)
    (hok : r.status = .ok) : minTime (Spec.operationEvents i s) = Spec.timeOf s.cfgBus i := by
  cases i with
  | init =>
    cases hanswer
    obtain ⟨hready, hconfig⟩ : initReady s = true ∧ configOk s = true := by simpa using hok
    simp only [Spec.operationEvents, ← initReady_iff, legalConfig_eq_configOk, hready, hconfig, if_true]
    rw [minTime_initEvents (legalBus_of_configOk hconfig) (minTime_transmission (txStatus_of_configOk hconfig) false),
      timeOf_init]
  | functionSet =>
    cases hanswer
    have hconfig : configOk s = true := by simpa using hok
    rw [Spec.operationEvents, legalConfig_eq_configOk, if_pos hconfig]
    exact minTime_transmission (txStatus_of_configOk hconfig) _ _
  | setDdramAddr addr =>
    cases hanswer
    simp only [ddramMax_lt_iff] at hok
    split at hok
    · cases hok
    · next hrange =>
      rw [Spec.operationEvents, if_neg hrange]
      exact minTime_transmission hok _ _
  | print bytes =>
    cases hanswer
    cases bytes with
    | nil => exact (Nat.zero_mul _).symm
    | cons b bs => exact minTime_dataTransmissions hok _
  | cfgw | regrd => rfl
  | clear | home =>
    cases hanswer
    rw [Spec.operationEvents, minTime_append, minTime_transmission hok, minTime_delay, Nat.add_comm]
    rfl
  | entryModeSet | displayOn | displayOff | cursorOn | cursorOff | blinkOn | blinkOff =>
    cases hanswer
    exact minTime_transmission hok _ _
  | _ => cases hanswer

/-- Failing a check, only INIT can have emitted anything, its power delay (60_exceptions.md R121). -/
theorem failEvents_of_failed_check {st : Status} (hst : st = .invalidArgument ∨ st = .outOfRange) (i : Instr)
    (s : State) : Spec.failEvents s i st =
      if i = .init ∧ s.bind = 0xFF#8 ∧ Spec.legalLines s.cfgLines = true then [.delay 50000] else [] := by
  cases i with
  | init => rcases hst with rfl | rfl <;> simp [Spec.failEvents]
  | _ => rcases hst with rfl | rfl <;> rfl

/-! ## The number of events (70_reset_and_hazards.md R141) -/

theorem length_transmission_le (bus : Byte) (r : Bool) (b : Byte) : (Spec.transmission bus r b).length ≤ 16 := by
  unfold Spec.transmission
  split_ifs <;> simp [Spec.pulse]

theorem length_dataTransmissions_le (bus : Byte) (bytes : List Byte) :
    (Spec.dataTransmissions bus bytes).length ≤ 16 * bytes.length := by
  induction bytes with
  | nil => exact Nat.le_refl 0
  | cons b bs ih =>
    have hb := length_transmission_le bus true b
    rw [Spec.dataTransmissions, List.length_append, List.length_cons]
    omega

theorem length_initEvents_le (bus fs : Byte) : (Spec.initEvents bus fs).length ≤ 68 := by
  unfold Spec.initEvents
  split_ifs <;> simp [Spec.pulse]

/-- A PRINT of 255 bytes over 4 wires emits the most. -/
theorem length_operationEvents_le {i : Instr} (hwf : WellFormed i) (s : State) :
    (Spec.operationEvents i s).length ≤ 4080 := by
  have one : ∀ b, (Spec.transmission s.cfgBus false b).length ≤ 4080 := fun b =>
    (length_transmission_le _ _ b).trans (by decide)
  have one_then_delay : ∀ b d, (Spec.transmission s.cfgBus false b ++ [Event.delay d]).length ≤ 4080 := by
    intro b d
    have hb := length_transmission_le s.cfgBus false b
    rw [List.length_append, List.length_singleton]
    omega
  have nothing : ([] : List Event).length ≤ 4080 := Nat.zero_le _
  cases i with
  | init =>
    simp only [Spec.operationEvents]
    split_ifs
    · exact (length_initEvents_le _ _).trans (by decide)
    · exact (by decide : 1 ≤ 4080)
    · exact nothing
  | print bytes =>
    have hmax : bytes.length ≤ 255 := of_decide_eq_true hwf
    have hle := length_dataTransmissions_le s.cfgBus bytes
    rw [Spec.operationEvents]
    omega
  | setDdramAddr addr =>
    simp only [Spec.operationEvents]
    split_ifs
    · exact nothing
    · exact one _
  | functionSet =>
    simp only [Spec.operationEvents]
    split_ifs
    · exact one _
    · exact nothing
  | cfgw | regrd => exact nothing
  | clear | home => exact one_then_delay _ _
  | busDataWrite d => exact (length_transmission_le _ _ d).trans (by decide)
  | _ => exact one _

end Sys2Proof.Machine

namespace Sys2Proof.Proofs

open Sys2Proof.Machine

/-- Settles O48: an operation that answers `Ok` takes its transmissions and delays; one that fails a check has emitted
nothing but, for INIT, the power delay. -/
theorem minimumTimes : Obligations.MinimumTimes := by
  unfold Obligations.MinimumTimes
  intro i s t st v hhost hexec hresponses
  have hanswer := answer_of_responses hhost hexec hresponses
  rw [newEvents_of_exec hexec]
  refine ⟨minTime_operationEvents_of_ok hanswer, fun hst => ?_⟩
  have hfailed : st ≠ .ok := by rcases hst with rfl | rfl <;> nofun
  rw [operationEvents_of_failed hanswer hfailed, failEvents_of_failed_check hst]
  split
  · exact minTime_delay 50000
  · exact minTime_nil

/-- Settles O49: a transmission emits at most 16 events, and a PRINT has at most 255 of them. -/
theorem eventsAreBounded : Obligations.EventsAreBounded := by
  unfold Obligations.EventsAreBounded
  intro i s t hwf hexec
  rw [newEvents_of_exec hexec]
  exact length_operationEvents_le hwf s

end Sys2Proof.Proofs

/-! A stream that does not end inside a payload is served to its end (70_reset_and_hazards.md R141, R146). -/

namespace Sys2Proof

/-! ## What is left of a complete stream -/

/-- A payload that is awaited is there, and what follows it is complete (70_reset_and_hazards.md R146). -/
theorem streamComplete_drop {n : Nat} {ws : List Word} (h : streamComplete n ws = true) :
    n ≤ ws.length ∧ streamComplete 0 (ws.drop n) = true := by
  induction n generalizing ws with
  | zero => exact ⟨Nat.zero_le _, h⟩
  | succ n ih =>
    cases ws with
    | nil => cases h
    | cons w ws =>
      obtain ⟨hlen, hrest⟩ := ih h
      exact ⟨Nat.succ_le_succ hlen, hrest⟩

/-- An illegal word has no payload (30_encoding.md R68, R70). -/
theorem payloadLength_of_not_matchesRow {w : Word} (h : Spec.matchesRow w = false) : payloadLength w = 0 := by
  rw [payloadLength_eq, if_neg]
  intro hprint
  simp [Spec.matchesRow, Spec.rows, hprint] at h

end Sys2Proof

namespace Sys2Proof.Machine

open Sys2Proof.Safety

/-! ## One request of a complete stream -/

/-- An idle block with a complete interface and a complete stream. -/
def Servable (s : State) : Prop :=
  Idle s ∧ s.busy = false ∧ s.bind = 0xFF#8 ∧ streamComplete 0 s.requests = true

/-- A step serves the request at the head: its words are taken and one response is given. -/
structure Served (s t : State) : Prop where
  servable : Servable t
  shorter : t.requests.length < s.requests.length
  rp_add : t.rp + t.requests.length = s.rp + s.requests.length
  responses : t.responses.length = s.responses.length + 1

theorem served_of_accept {s t : State} {w : Word} {ws rest : List Word} (hreq : s.requests = w :: ws)
    (hrest : rest <:+ ws) (hservable : Servable t) (htaken : t.requests = rest) (hrp : t.rp = (accept rest s).rp)
    (hresponses : t.responses.length = s.responses.length + 1) : Served s t := by
  subst htaken
  have hlen := hrest.length_le
  have hwords : s.requests.length = ws.length + 1 := by rw [hreq, List.length_cons]
  rw [accept_rp, hwords] at hrp
  exact ⟨hservable, by omega, by omega, hresponses⟩

/-- The payload of the header is there, so the request is performed, or its word is illegal and rejected. -/
theorem step_serves {s : State} (h : Servable s) (hne : s.requests ≠ []) : ∃ t, step s = .next t ∧ Served s t := by
  obtain ⟨⟨hrst, htx, hacc⟩, -, hbind, hcomplete⟩ := h
  have hport := portWords_of_accepted_nil hacc
  obtain ⟨w, ws, hreq⟩ := List.exists_cons_of_ne_nil hne
  rw [hreq] at hport hcomplete
  obtain ⟨hpayload, hrest⟩ := streamComplete_drop (n := payloadLength w) hcomplete
  rcases decode_cases w ws with ⟨-, i, hhost, -, -, hdec⟩ | ⟨-, hmissing, -⟩ | ⟨hillegal, r, hr, hdec⟩
  · obtain ⟨a, ha⟩ := answer_isSome hhost (accept (ws.drop (payloadLength w)) s)
    refine ⟨stateAfter i (accept (ws.drop (payloadLength w)) s), ?_,
      served_of_accept hreq (List.drop_suffix (payloadLength w) ws) ?_ ?_ ?_ ?_⟩
    · rw [step_of_decode_ok hrst htx (hport ▸ hdec)]
      exact exec_eq_next_iff.2 ⟨present_of_complete hbind _, rfl⟩
    · simp [Servable, Idle, ha, hrst, htx, hbind, hrest]
    · simp
    · simp
    · simp [ha]
  · exact absurd hpayload (Nat.not_le.2 hmissing)
  · rw [payloadLength_of_not_matchesRow hillegal, List.drop_zero] at hrest
    refine ⟨rejectWord s, step_of_isIllegalWord hrst htx hr (hport ▸ hdec),
      served_of_accept hreq (List.suffix_refl ws) ?_ ?_ ?_ ?_⟩
    · simp [Servable, Idle, rejectWord, raise, hrst, htx, hbind, hport, hrest]
    · simp [rejectWord, raise, hport]
    · simp [rejectWord, raise, hport]
    · simp [rejectWord, raise]

theorem run_succ {k : Nat} {s t : State} (h : step s = .next t) : core.run (k + 1) s = core.run k t := by
  have hcore : core.step s = .next t := h
  simp only [Host.Core.run, hcore]

/-- As many steps as there are requests serve a stream to its end, by induction on its length. -/
theorem run_serves {s : State} (h : Servable s) : ∃ k t, k ≤ s.requests.length ∧ core.run k s = .next t ∧
    runOver t = true ∧ t.rp = s.rp + s.requests.length ∧ t.responses.length = s.responses.length + k := by
  induction hn : s.requests.length using Nat.strong_induction_on generalizing s with
  | _ n ih =>
    subst hn
    by_cases hnil : s.requests = []
    · obtain ⟨-, hbusy, -, -⟩ := h
      exact ⟨0, s, Nat.zero_le _, rfl, by simp [runOver, hnil, hbusy], by simp [hnil], rfl⟩
    · obtain ⟨u, hstep, hserved⟩ := step_serves h hnil
      obtain ⟨k, t, hk, hrun, hover, hrp, hresp⟩ := ih _ hserved.shorter hserved.servable rfl
      refine ⟨k + 1, t, hk.trans_lt hserved.shorter, by rw [run_succ hstep, hrun], hover, ?_, ?_⟩
      · rw [hrp, hserved.rp_add]
      · rw [hresp, hserved.responses]
        omega

end Sys2Proof.Machine

namespace Sys2Proof.Proofs

open Sys2Proof.Machine Sys2Proof.Safety

/-- Settles O57: each step serves one request and leaves a shorter stream that is complete as well. -/
theorem completeStreamIsServed : Obligations.CompleteStreamIsServed := by
  unfold Obligations.CompleteStreamIsServed
  exact fun s hidle hbusy hbind hcomplete => run_serves ⟨hidle, hbusy, hbind, hcomplete⟩

end Sys2Proof.Proofs
